-- ==== Sys2Proof/Word.lean ====
section
/-! DEFINITION. The words of the block: the byte of a register (R11, R20) and the 10-bit value of a
conversion and of a returned sample (R11, R41). Every value is an unsigned bit vector (R14). -/

namespace Sys2Proof

/-- One register of the register set, and one command word: 8 bits (R11, R81). -/
abbrev Byte := BitVec 8

/-- A raw conversion result, and the returned sample: 10 bits (R11, R41). -/
abbrev Sample := BitVec 10

end Sys2Proof
end

