-- ==== Sys2Proof/Config.lean ====
section
/-! DEFINITION. The build-time configuration `cfg` of R10, whose turn can come next (R13, R220), and the
two free values of the model: the raw value of a conversion nobody supplied (R168) and the next turn when
no schedule is left (R13, R72). -/

namespace Sys2Proof

/-- The voltage reference, `cfg.ref` (R10, R87). -/
inductive Ref where
  | aref | avcc | int2v56
  deriving DecidableEq, Repr

/-- The justification of the result, `cfg.just` (R10, R88). -/
inductive Just where
  | right | left
  deriving DecidableEq, Repr

/-- The trigger source, `cfg.trig` (R10). Every member but `disabled` is refused (R8). -/
inductive Trig where
  | disabled | freeRunning | comparator | externalInterrupt | timerCompare | timerOverflow | timerCapture
  deriving DecidableEq, Repr

/-- How the sequencer waits for completion, `cfg.mode` (R10, R114). -/
inductive Mode where
  | polled | interrupt
  deriving DecidableEq, Repr

/-- The prescaler divisor, `cfg.presc` (R10, R113). -/
inductive Presc where
  | div2 | div4 | div8 | div16 | div32 | div64 | div128
  deriving DecidableEq, Repr

/-- The configuration record (R10): one choice on each of five axes, fixed at build time. -/
structure Cfg where
  ref   : Ref
  just  : Just
  trig  : Trig
  mode  : Mode
  presc : Presc
  deriving DecidableEq, Repr

/-- Whose step is next. The four agents of R13; the reset event of R220; and `command`, the host handing
over one command and the block carrying it out to its end (the big steps of R132 and R135).
DESIGN CHOICE (logs 2 and 4): one deterministic step needs the turn as data. -/
inductive Turn where
  | host | seq | conv | notify | command | rst
  deriving DecidableEq, Repr, Inhabited

/-- The configuration of the source's one scenario (R99, V6). DESIGN CHOICE (log 1): the configuration
that `State.reset` carries. The rules leave `cfg` open (R12), and the statements are made for every `cfg`. -/
def Config.scenario : Cfg :=
  { ref := .avcc, just := .right, trig := .disabled, mode := .polled, presc := .div128 }

/-- Free value: the raw value of a conversion that the list of answers does not supply (R168: "The raw
value is a draw"). No body: nothing can be proved about a value of it (log 3). -/
opaque Config.freeRaw : Nat → Sample

/-- Free value: whose turn is next when the list of turns has run out (R13: "Any agent whose step is
enabled may take it next"). No body (log 2). -/
opaque Config.freeTurn : Nat → Turn

end Sys2Proof
end

