-- ==== Sys2Proof/Syntax.lean ====
section
/-! DEFINITION. The syntax: one constructor of `Instr` for each row of spec/opcode_table.json, the four
registers of the register set (R20) and their named fields (R84, R85), and the coded form in which an
instruction reaches the decoder (R80). -/

namespace Sys2Proof

/-- The twelve rows of the opcode table: two commands (R130), eight micro-operations (R91), two events
(R97). Operands are those the table gives: READ's channel (5 bits, R93), the presented word of ACCEPT
(R131), the raw value of CONV_DONE (R167). -/
inductive Instr where
  | init
  | read (channel : BitVec 5)
  | accept (word : Byte)
  | selch
  | trig
  | waitp
  | waiti
  | ret
  | initmux
  | initctl
  | convDone (raw : Sample)
  | notify
  deriving DecidableEq, Repr

/-- The register set (R20, R60). -/
inductive Reg where
  | muxctl | ctlstat | dataLo | dataHi
  deriving DecidableEq, Repr

/-- The named fields of MUXCTL (R84) and CTLSTAT (R85). -/
inductive Field where
  | refs | just | chsel
  | en | start | aten | done | ien | presc
  deriving DecidableEq, Repr

/-- What the decoder is given (R80): (a) a command word; (c) a SEQ code, read together with the
configured mode (R92) and, for ACCEPT, the presented word; (d) the CTLSTAT value that enables an event
(R97), with the raw value CONV presents. -/
inductive Code where
  | cmd (word : Byte)
  | seq (code : BitVec 3) (mode : Mode) (word : Byte)
  | conv (ctlstat : Byte) (raw : Sample)
  | notify (ctlstat : Byte)
  deriving DecidableEq, Repr

/-- Why a coded form names no instruction. -/
inductive Rejection where
  /-- `op = 0b000` with `arg` not 0: words 0x01..0x1F (R94). -/
  | initWithArgument
  /-- `op = 0b001` with `arg` in 8..31: words 0x28..0x3F (R94). -/
  | channelOutOfRange
  /-- `op` in 0b010..0b111: words 0x40..0xFF (R94). -/
  | undefinedOperation
  /-- SEQ = 7 (R91, R143). -/
  | reservedSeqCode
  /-- CTLSTAT without EN = 1 and START = 1 (R97). -/
  | convDoneNotEnabled
  /-- CTLSTAT without DONE = 1 and IEN = 1 (R97). -/
  | notifyNotEnabled
  deriving DecidableEq, Repr

/-- The answer of the decoder: an instruction, or the reason there is none. -/
inductive Decoded where
  | instr (i : Instr)
  | rejected (why : Rejection)
  deriving DecidableEq, Repr

end Sys2Proof
end

