-- ==== Sys2Proof/WellFormed.lean ====
section
/-! DEFINITION. Which syntax is well formed: a READ names one of the eight channels (R93, R154), a
configuration has the one trigger source the block implements (R8, R115), and an address map is injective
(R70). -/

namespace Sys2Proof

/-- An instruction is well formed when its operand is in the range the spec gives it: READ's channel is
0 to 7 (R93, R94); every other operand may take every value of its width. -/
def Instr.wellFormed : Instr → Bool
  | .init => true
  | .read channel => channel.toNat ≤ 7
  | .accept _ => true
  | .selch => true
  | .trig => true
  | .waitp => true
  | .waiti => true
  | .ret => true
  | .initmux => true
  | .initctl => true
  | .convDone _ => true
  | .notify => true

/-- A configuration the block can be elaborated with: the trigger source is DISABLED (R8, R115). The
other axes are closed sets already by their types (R116). -/
def Cfg.admitted (c : Cfg) : Bool := c.trig = .disabled

/-- The registers in the order R60 lists them. -/
def Reg.all : List Reg := [.muxctl, .ctlstat, .dataLo, .dataHi]

/-- An address map REG_ADDR is well formed when it is injective (R70). -/
def addrMapOk (regAddr : Reg → Nat) : Bool :=
  (Reg.all.map regAddr).Nodup

end Sys2Proof
end

