-- ==== Sys2Proof/Machine/Resolver.lean ====
section
/-! DEFINITION. The configuration resolver (R110): nine total functions of `cfg` alone, and the
elaboration of a configuration given as raw numbers (R116). -/

namespace Sys2Proof.Machine

/-- `RefCode` (R87, R111). -/
def refCode : Ref → BitVec 2
  | .aref    => 0b00#2
  | .avcc    => 0b01#2
  | .int2v56 => 0b11#2

/-- `JustCode` (R88, R112). -/
def justCode : Just → BitVec 1
  | .right => 0#1
  | .left  => 1#1

/-- `AssembleRoutine` (R112): the assembly routine RET uses. -/
def assembleRoutine (c : Cfg) : Just := c.just

/-- `PrescCode` (R89, R113). -/
def prescCode : Presc → BitVec 3
  | .div2   => 0b001#3
  | .div4   => 0b010#3
  | .div8   => 0b011#3
  | .div16  => 0b100#3
  | .div32  => 0b101#3
  | .div64  => 0b110#3
  | .div128 => 0b111#3

/-- The divisor a prescaler choice stands for (R10, R113). -/
def divisor : Presc → Nat
  | .div2   => 2
  | .div4   => 4
  | .div8   => 8
  | .div16  => 16
  | .div32  => 32
  | .div64  => 64
  | .div128 => 128

/-- `IenCode` (R90, R114). -/
def ienCode : Mode → BitVec 1
  | .interrupt => 1#1
  | .polled    => 0#1

/-- The two wait routines `WaitRoutine` chooses between (R114, R166). -/
inductive WaitRoutine where
  | waitp | waiti
  deriving DecidableEq, Repr

/-- `WaitRoutine` (R114), as a function of the one field it reads (R119). -/
def waitRoutine : Mode → WaitRoutine
  | .interrupt => .waiti
  | .polled    => .waitp

/-- What `TrigResolve` answers (R115). -/
inductive TrigResult where
  | aten (bit : BitVec 1)
  | unimplemented
  deriving DecidableEq, Repr

/-- `TrigResolve` (R115): only DISABLED is implemented, and it means ATEN = 0. -/
def trigResolve : Trig → TrigResult
  | .disabled          => .aten 0#1
  | .freeRunning       => .unimplemented
  | .comparator        => .unimplemented
  | .externalInterrupt => .unimplemented
  | .timerCompare      => .unimplemented
  | .timerOverflow     => .unimplemented
  | .timerCapture      => .unimplemented

/-- `MuxInit` (R118): the fields INITMUX writes into MUXCTL, each with its value zero-extended to a byte. -/
def muxInit (c : Cfg) : List (Field × Byte) :=
  [(.refs, (refCode c.ref).setWidth 8), (.just, (justCode c.just).setWidth 8)]

/-- `CtlInit` (R118): the fields INITCTL writes into CTLSTAT. -/
def ctlInit (c : Cfg) : List (Field × Byte) :=
  [(.presc, (prescCode c.presc).setWidth 8), (.ien, (ienCode c.mode).setWidth 8), (.en, 1#8)]

/-- A configuration whose axes are raw numbers (R116): the codes of R87, R88 and R90 and the divisor. -/
structure RawCfg where
  ref     : Nat
  just    : Nat
  trig    : Trig
  mode    : Nat
  divisor : Nat
  deriving DecidableEq, Repr

/-- The reference a raw code names; 0b10 and anything wider are refused (R87, R116). -/
def refOfCode : Nat → Option Ref
  | 0 => some .aref
  | 1 => some .avcc
  | 3 => some .int2v56
  | _ => none

/-- The justification a raw code names (R88, R116). -/
def justOfCode : Nat → Option Just
  | 0 => some .right
  | 1 => some .left
  | _ => none

/-- The mode a raw code names (R90, R116). -/
def modeOfCode : Nat → Option Mode
  | 0 => some .polled
  | 1 => some .interrupt
  | _ => none

/-- The prescaler choice with a given divisor; any other divisor is refused (R116). -/
def prescOfDivisor : Nat → Option Presc
  | 2   => some .div2
  | 4   => some .div4
  | 8   => some .div8
  | 16  => some .div16
  | 32  => some .div32
  | 64  => some .div64
  | 128 => some .div128
  | _   => none

/-- Elaboration of a raw configuration (R116): refused (`none`) when an axis is outside its closed set.
The trigger source is not judged here: it is resolved, and refused at ACCEPT (R115, R131). -/
def elaborate (r : RawCfg) : Option Cfg :=
  match refOfCode r.ref, justOfCode r.just, modeOfCode r.mode, prescOfDivisor r.divisor with
  | some ref, some just, some mode, some presc => some { ref, just, trig := r.trig, mode, presc }
  | _, _, _, _ => none

end Sys2Proof.Machine
end

