-- ==== Sys2Proof/Decode.lean ====
section
/-! DEFINITION. The decoder, total on every coded form and rejecting by name, and after it the encoder:
command words (R81 to R83, R93, R94, R100), SEQ codes (R91, R92), the guards of the events (R97). Last,
the reading of a word as spec/opcode_table.json numbers it. -/

namespace Sys2Proof

open Machine (waitRoutine)

/-- `op`, bits 7:5 of a command word (R81). -/
def cmdOp (w : Byte) : BitVec 3 := w.extractLsb' 5 3

/-- `arg`, bits 4:0 of a command word (R81, R93). -/
def cmdArg (w : Byte) : BitVec 5 := w.extractLsb' 0 5

/-- `Decode` (R100), with a reserved word rejected under the name of its range (R94). -/
def decodeCommand (w : Byte) : Decoded :=
  if w = 0x00#8 then .instr .init
  else if cmdOp w = 0b001#3 ∧ (cmdArg w).toNat ≤ 7 then .instr (.read (cmdArg w))
  else if cmdOp w = 0b000#3 then .rejected .initWithArgument
  else if cmdOp w = 0b001#3 then .rejected .channelOutOfRange
  else .rejected .undefinedOperation

/-- The SEQ codes (R29, R91). -/
def S_IDLE : BitVec 3 := 0#3
def S_SELECT : BitVec 3 := 1#3
def S_TRIGGER : BitVec 3 := 2#3
def S_WAIT : BitVec 3 := 3#3
def S_READY : BitVec 3 := 4#3
def S_INIT_MUX : BitVec 3 := 5#3
def S_INIT_CTL : BitVec 3 := 6#3

/-- The micro-operation a SEQ code selects (R91), S_WAIT by the configured mode (R92). ACCEPT carries the
presented word. Code 7 selects none (R143). -/
def decodeSeq (code : BitVec 3) (mode : Mode) (word : Byte) : Decoded :=
  if code = S_IDLE then .instr (.accept word)
  else if code = S_SELECT then .instr .selch
  else if code = S_TRIGGER then .instr .trig
  else if code = S_WAIT then
    match waitRoutine mode with
    | .waitp => .instr .waitp
    | .waiti => .instr .waiti
  else if code = S_READY then .instr .ret
  else if code = S_INIT_MUX then .instr .initmux
  else if code = S_INIT_CTL then .instr .initctl
  else .rejected .reservedSeqCode

/-- CONV_DONE is enabled by EN = 1 and START = 1, and carries the raw value (R97). -/
def decodeConv (ctlstat : Byte) (raw : Sample) : Decoded :=
  if ctlstat &&& 0xC0#8 = 0xC0#8 then .instr (.convDone raw) else .rejected .convDoneNotEnabled

/-- NOTIFY is enabled by DONE = 1 and IEN = 1 (R97). -/
def decodeNotify (ctlstat : Byte) : Decoded :=
  if ctlstat &&& 0x18#8 = 0x18#8 then .instr .notify else .rejected .notifyNotEnabled

/-- The decoder (R80). -/
def decode : Code → Decoded
  | .cmd w => decodeCommand w
  | .seq code mode w => decodeSeq code mode w
  | .conv ctlstat raw => decodeConv ctlstat raw
  | .notify ctlstat => decodeNotify ctlstat

/-- The command word of INIT (R82). -/
def initWord : Byte := 0x00#8

/-- The command word of READ (R83): `0x20 | channel`. -/
def readWord (channel : BitVec 5) : Byte := 0x20#8 ||| channel.setWidth 8

/-- The encoder: the coded form of an instruction (R82, R83, R91, R97). A micro-operation that does not
depend on the mode is given POLLED and, but for ACCEPT, the word 0; an event is given the least CTLSTAT
value that enables it. -/
def encode : Instr → Code
  | .init => .cmd initWord
  | .read channel => .cmd (readWord channel)
  | .accept w => .seq S_IDLE .polled w
  | .selch => .seq S_SELECT .polled 0#8
  | .trig => .seq S_TRIGGER .polled 0#8
  | .waitp => .seq S_WAIT .polled 0#8
  | .waiti => .seq S_WAIT .interrupt 0#8
  | .ret => .seq S_READY .polled 0#8
  | .initmux => .seq S_INIT_MUX .polled 0#8
  | .initctl => .seq S_INIT_CTL .polled 0#8
  | .convDone raw => .conv 0xC0#8 raw
  | .notify => .notify 0x18#8

/-- A row of spec/opcode_table.json: its match and its mask. -/
structure TableRow where
  pattern : Byte
  mask    : Byte
  deriving DecidableEq, Repr

/-- The rows of spec/opcode_table.json. -/
def tableRow : Instr → TableRow
  | .init       => ⟨0x00, 0xFF⟩
  | .read _     => ⟨0x20, 0xE0⟩
  | .accept _   => ⟨0x0, 0x7⟩
  | .selch      => ⟨0x1, 0x7⟩
  | .trig       => ⟨0x2, 0x7⟩
  | .waitp      => ⟨0x3, 0x7⟩
  | .waiti      => ⟨0x3, 0x7⟩
  | .ret        => ⟨0x4, 0x7⟩
  | .initmux    => ⟨0x5, 0x7⟩
  | .initctl    => ⟨0x6, 0x7⟩
  | .convDone _ => ⟨0xC0, 0xC0⟩
  | .notify     => ⟨0x18, 0x18⟩

/-- The bits of a coded form that the table numbers: the command word, the SEQ code, the CTLSTAT value. -/
def Code.bits : Code → Byte
  | .cmd w => w
  | .seq code _ _ => code.setWidth 8
  | .conv ctlstat _ => ctlstat
  | .notify ctlstat => ctlstat

/-- Which coded form a word of the table is. DESIGN CHOICE (log 10): the table's three formats overlap,
so a word narrower than a byte is a SEQ code, and a byte is read as the first of these that fits: a defined
command word or one of READ's row; a SEQ code 1 to 6; a CTLSTAT value enabling CONV_DONE, then NOTIFY; else
a (reserved) command word. The table gives ACCEPT's word and CONV_DONE's raw value no bits: they are 0. -/
def tableCode (nbits w : Nat) : Code :=
  let b : Byte := BitVec.ofNat 8 w
  if nbits < 8 then .seq (b.setWidth 3) .polled 0#8
  else if b = 0x00#8 ∨ cmdOp b = 0b001#3 then .cmd b
  else if 1 ≤ b.toNat ∧ b.toNat ≤ 6 then .seq (b.setWidth 3) .polled 0#8
  else if b &&& 0xC0#8 = 0xC0#8 then .conv b 0#10
  else if b &&& 0x18#8 = 0x18#8 then .notify b
  else .cmd b

/-- The instruction the decoder reads from a word numbered as spec/opcode_table.json numbers it. -/
def decodeTableWord (nbits w : Nat) : Option Instr :=
  match decode (tableCode nbits w) with
  | .instr i => some i
  | .rejected _ => none

end Sys2Proof
end

