-- ==== Sys2Proof/Machine/State.lean ====
section
/-! DEFINITION. The state of the block as 10_state.md gives it, the interface signals that last from step
to step, the model's own fields (configuration, host list, schedule, converter's answers, draw counter),
the reasons a step stops, and the state after reset (R44, R220). -/

namespace Sys2Proof.Machine

/-- An event of the history (R38). -/
inductive Event where
  /-- ACCEPT took command word `w`. -/
  | cmd (w : Byte)
  /-- A step wrote register `r`, from `old` to `new`. -/
  | regWr (r : Reg) (old new : Byte)
  /-- TRIG started a conversion of channel code `ch` with reference code `refs`. -/
  | convStart (ch : BitVec 5) (refs : BitVec 2)
  /-- CONV_DONE delivered `raw`. -/
  | convDone (raw : Sample)
  /-- NOTIFY ran. -/
  | notify
  /-- RET returned `sample`. -/
  | ret (sample : Sample)
  /-- INITCTL finished Initialize. -/
  | initDone
  deriving DecidableEq, Repr

/-- The block raises no exception and has no trap (R195), and the hang is an execution, not a stop (R165).
So no step of the model faults: the type has no constructor. Safe: nothing can be claimed of a fault. -/
inductive Fault where
  deriving DecidableEq, Repr

/-- Why a run is refused (R16): the spec gives the situation no meaning. A refused run goes no further,
which is the mark that no later step clears. Every reason is safe: nothing is claimed after it. -/
inductive Refusal where
  /-- An arm of `exec` whose instruction has no meaning yet. No arm raises it. Safe. -/
  | notModelled (mnemonic : String)
  /-- ACCEPT, under a configuration whose trigger source is not DISABLED (R8, R115, R131; U5). Safe. -/
  | autoTriggerUnimplemented
  /-- ACCEPT of a word outside the command set (R94, R131; U3, U6). Safe. -/
  | reservedCommand
  /-- ACCEPT of INIT with EN = 1 (R131, R137; U1). Safe. -/
  | reInitialize
  /-- ACCEPT of READ with EN = 0 (R131, R136; U2). Safe. -/
  | readBeforeInitialize
  /-- A step from a state with SEQ = 7 (R143; X5). Safe. -/
  | reservedSequencerState
  /-- A step from a state with REFS = 0b10 (R95; X1). Safe. -/
  | reservedReference
  /-- A step from a state with CHSEL in 8..31 (R95; X2). Safe. -/
  | reservedChannel
  /-- A step from a state with ATEN = 1 (R95; X3). Safe. -/
  | reservedAutoTriggerBit
  /-- An access to an address that REG_ADDR maps no register to (R64; X6). No step raises it. Safe. -/
  | unmappedRegister (address : Nat)
  /-- A FieldWrite of a value that does not fit its field (R64; X6). No step raises it. Safe. -/
  | fieldValueTooWide (f : Field) (v : Nat)
  deriving DecidableEq, Repr

/-- The whole state. The first eleven lines are the spec's (R20 to R29, R38), the next two its ports (R40,
R41), the rest the model's own. -/
structure State where
  /-- The configuration (R10). Fixed: every step keeps it (log 1). -/
  cfg     : Cfg
  /-- MUXCTL (R21). -/
  muxctl  : Byte
  /-- CTLSTAT (R22). -/
  ctlstat : Byte
  /-- DATA_LO (R23). -/
  dataLo  : Byte
  /-- DATA_HI (R24). -/
  dataHi  : Byte
  /-- SEQ, the program counter (R29). -/
  seq     : BitVec 3
  /-- IR, the command latch (R26). -/
  ir      : Byte
  /-- SIG, the completion signal (R28). -/
  sig     : Bool
  /-- CAPT_LO (R27). -/
  captLo  : Byte
  /-- CAPT_HI (R27). -/
  captHi  : Byte
  /-- The event history, oldest first (R38). -/
  history : List Event
  /-- The command port as the host drives it: `some w` is cmd_valid = 1 with cmd_word = w (R40, log 6). -/
  cmdPort : Option Byte
  /-- The response port in the last step: `some v` is rsp_valid = 1 with rsp_data = v (R41, log 7). -/
  rsp     : Option Sample
  /-- The words the host has still to present, in order (R141, log 6). -/
  cmds    : List Byte
  /-- Whose turn is next, in order; free when empty (R13, R72, log 2). -/
  turns   : List Turn
  /-- The raw values of the next conversions, in order; free when empty (R168, log 3). -/
  answers : List Sample
  /-- How many free values have been drawn (logs 2 and 3). -/
  drawn   : Nat
  deriving DecidableEq, Repr

/-- The outcome of a step or of an instruction. -/
abbrev Result := Host.Outcome State Fault Refusal

/-- The state after reset of a block elaborated with `cfg` (R44, R220, R221). The ports are idle and the
model's own lists are empty: no program and no schedule is invented (logs 2, 3, 6, 7). -/
def State.resetOf (cfg : Cfg) : State :=
  { cfg, muxctl := 0x00#8, ctlstat := 0x00#8, dataLo := 0x00#8, dataHi := 0x00#8, seq := S_IDLE, ir := 0x00#8,
    sig := false, captLo := 0x00#8, captHi := 0x00#8, history := [], cmdPort := none, rsp := none,
    cmds := [], turns := [], answers := [], drawn := 0 }

/-- The machine right after reset, with the source's scenario as its configuration (log 1). -/
def State.reset : State := State.resetOf Config.scenario

end Sys2Proof.Machine
end

