-- ==== Sys2Proof/Machine/Operands.lean ====
section
/-! DEFINITION. Every operand form: the fields of the registers (R84, R85) with the field read (R61) and the
field put of FieldWrite (R63), and the channel operand IR[4:0] (R93, R150). -/

namespace Sys2Proof.Machine

/-- The register a field belongs to (R84, R85). -/
def fieldReg : Field → Reg
  | .refs  => .muxctl
  | .just  => .muxctl
  | .chsel => .muxctl
  | .en    => .ctlstat
  | .start => .ctlstat
  | .aten  => .ctlstat
  | .done  => .ctlstat
  | .ien   => .ctlstat
  | .presc => .ctlstat

/-- `Lo(F)`, the position of a field's least significant bit (R84, R85). -/
def fieldLo : Field → Nat
  | .refs  => 6
  | .just  => 5
  | .chsel => 0
  | .en    => 7
  | .start => 6
  | .aten  => 5
  | .done  => 4
  | .ien   => 3
  | .presc => 0

/-- `W(F)`, the width of a field (R84, R85). -/
def fieldWidth : Field → Nat
  | .refs  => 2
  | .just  => 1
  | .chsel => 5
  | .en    => 1
  | .start => 1
  | .aten  => 1
  | .done  => 1
  | .ien   => 1
  | .presc => 3

/-- `(2^W(F) - 1)` as a byte. -/
def fieldOnes (f : Field) : Byte := BitVec.ofNat 8 (2 ^ fieldWidth f - 1)

/-- `M`, the mask of a field in its register (R63). -/
def fieldMask (f : Field) : Byte := fieldOnes f <<< fieldLo f

/-- `Reg[r].F` of a register that holds `b` (R61), zero-extended to a byte. -/
def fieldGet (f : Field) (b : Byte) : Byte := (b >>> fieldLo f) &&& fieldOnes f

/-- What FieldWrite makes of a register that holds `b` (R63): the field becomes `v`, the other bits stay. -/
def fieldPut (f : Field) (v b : Byte) : Byte :=
  (b &&& ~~~ fieldMask f) ||| ((v <<< fieldLo f) &&& fieldMask f)

/-- Several FieldWrites to one register, performed together (R63). -/
def putFields : List (Field × Byte) → Byte → Byte
  | [], b => b
  | (f, v) :: rest, b => putFields rest (fieldPut f v b)

/-- A one-bit field as a truth value. -/
def fieldBit (f : Field) (b : Byte) : Bool := fieldGet f b = 1#8

/-- MUXCTL.REFS (R84). -/
def State.refs (s : State) : BitVec 2 := (fieldGet .refs s.muxctl).setWidth 2

/-- MUXCTL.JUST (R84). -/
def State.justBit (s : State) : BitVec 1 := (fieldGet .just s.muxctl).setWidth 1

/-- MUXCTL.CHSEL (R84). -/
def State.chsel (s : State) : BitVec 5 := (fieldGet .chsel s.muxctl).setWidth 5

/-- CTLSTAT.PRESC (R85). -/
def State.presc (s : State) : BitVec 3 := (fieldGet .presc s.ctlstat).setWidth 3

/-- The operand of SELCH, `IR[4:0]` (R93, R150), as a byte. -/
def State.irChannel (s : State) : Byte := (cmdArg s.ir).setWidth 8

end Sys2Proof.Machine
end

