-- ==== Sys2Proof/Machine/Flags.lean ====
section
/-! DEFINITION. The status bits (R32 to R35) and the conditions made of them: the conversion in flight and
the pending interrupt (R37), which are the enabling conditions of the events (R97). -/

namespace Sys2Proof.Machine

/-- CTLSTAT.EN (R34). -/
def State.en (s : State) : Bool := fieldBit .en s.ctlstat

/-- CTLSTAT.START (R32). -/
def State.start (s : State) : Bool := fieldBit .start s.ctlstat

/-- CTLSTAT.ATEN (R35). -/
def State.aten (s : State) : Bool := fieldBit .aten s.ctlstat

/-- CTLSTAT.DONE (R33). -/
def State.done (s : State) : Bool := fieldBit .done s.ctlstat

/-- CTLSTAT.IEN (R35). -/
def State.ien (s : State) : Bool := fieldBit .ien s.ctlstat

/-- A conversion is in flight (R37): the condition that enables CONV_DONE (R97, R167). -/
def State.inFlight (s : State) : Bool := s.en && s.start

/-- The completion interrupt is pending (R37, R198): the condition that enables NOTIFY (R97, R169). -/
def State.irqPending (s : State) : Bool := s.done && s.ien

end Sys2Proof.Machine
end

