-- ==== Sys2Proof/Machine/Ops.lean ====
section
/-! DEFINITION. The named operations: updates of single fields of State, the register accesses of R60 to
R64 and R15, the history (R38), entry into the completion interrupt (R200), sequencing, and the draws. -/

namespace Sys2Proof.Machine

/-! Updates of State, one field each. -/

def State.setSeq (s : State) (code : BitVec 3) : State := { s with seq := code }
def State.setIr (s : State) (w : Byte) : State := { s with ir := w }
def State.setSig (s : State) (b : Bool) : State := { s with sig := b }
def State.setPort (s : State) (p : Option Byte) : State := { s with cmdPort := p }
def State.setRsp (s : State) (r : Option Sample) : State := { s with rsp := r }
def State.setCmds (s : State) (ws : List Byte) : State := { s with cmds := ws }

/-- Both halves of the capture slot at once (R27, R67). -/
def State.setCapt (s : State) (hi lo : Byte) : State := { s with captHi := hi, captLo := lo }

/-- `emit E` (R16, R38). -/
def State.emit (s : State) (e : Event) : State := { s with history := s.history ++ [e] }

/-! The register space. -/

/-- `Reg[r]` (R61). A read changes nothing. -/
def State.reg (s : State) : Reg → Byte
  | .muxctl  => s.muxctl
  | .ctlstat => s.ctlstat
  | .dataLo  => s.dataLo
  | .dataHi  => s.dataHi

/-- The storage of register `r` becomes `v`. -/
def State.setReg (s : State) (r : Reg) (v : Byte) : State :=
  match r with
  | .muxctl  => { s with muxctl := v }
  | .ctlstat => { s with ctlstat := v }
  | .dataLo  => { s with dataLo := v }
  | .dataHi  => { s with dataHi := v }

/-- `Reg[r] <- v` (R62), with the event R38 has for every write of a register. -/
def State.writeReg (s : State) (r : Reg) (v : Byte) : State :=
  (s.setReg r v).emit (.regWr r (s.reg r) v)

/-- FieldWrites to fields of `r`, performed together as one write of `r` (R63). -/
def State.writeFields (s : State) (r : Reg) (fs : List (Field × Byte)) : State :=
  s.writeReg r (putFields fs (s.reg r))

/-- `FieldWrite(r, F, v)` as a bounds-checked operation (R63, R64): a value wider than the field is
refused, not truncated. -/
def fieldWrite (f : Field) (v : Nat) (s : State) : Result :=
  if v < 2 ^ fieldWidth f then .next (s.writeFields (fieldReg f) [(f, BitVec.ofNat 8 v)])
  else .refused (.fieldValueTooWide f v)

/-- The register at an address, under an address map REG_ADDR (R15, R70). -/
def regAt (regAddr : Reg → Nat) (address : Nat) : Option Reg :=
  Reg.all.find? (fun r => regAddr r = address)

/-- `MemRead(address, 1)` (R15): the value of the register there; an address of no register is refused
(R64). REG_ADDR is an argument (R12). -/
def memRead (regAddr : Reg → Nat) (address : Nat) (s : State) : Except Refusal Byte :=
  match regAt regAddr address with
  | some r => .ok (s.reg r)
  | none => .error (.unmappedRegister address)

/-- `MemWrite(address, 1, v)` (R15), bounds-checked as `memRead`. No agent of the block uses it: the host
has no write path to the registers (R77). -/
def memWrite (regAddr : Reg → Nat) (address : Nat) (v : Byte) (s : State) : Result :=
  match regAt regAddr address with
  | some r => .next (s.writeReg r v)
  | none => .refused (.unmappedRegister address)

/-! Entry into the one interrupt. -/

/-- Entry into the conversion-complete interrupt (R169, R200): capture both halves, signal, acknowledge.
Nothing else is saved, no mode or mask changes and control goes nowhere; it is one atomic step with no
return operation (R201). -/
def takeCompletionInterrupt (s : State) : State :=
  (((s.setCapt s.dataHi s.dataLo).setSig true).writeFields .ctlstat [(.done, 0#8)]).emit .notify

/-! Sequencing and draws. -/

/-- The second operation after the first, unless the first one stopped. -/
def andThen (r : Result) (k : State → Result) : Result :=
  match r with
  | .next s => k s
  | .fault f => .fault f
  | .refused why => .refused why

/-- The raw value the CONV agent presents next (R168): the first of the listed answers, else a free value. -/
def State.nextRaw (s : State) : Sample :=
  match s.answers with
  | raw :: _ => raw
  | [] => Config.freeRaw s.drawn

/-- The state once that raw value has been taken. -/
def State.afterRaw (s : State) : State :=
  match s.answers with
  | _ :: rest => { s with answers := rest }
  | [] => { s with drawn := s.drawn + 1 }

/-- Whose turn is next (R13, R72): the first of the listed turns, else a free value. -/
def State.nextTurn (s : State) : Turn :=
  match s.turns with
  | t :: _ => t
  | [] => Config.freeTurn s.drawn

/-- The state once that turn has been taken. -/
def State.afterTurn (s : State) : State :=
  match s.turns with
  | _ :: rest => { s with turns := rest }
  | [] => { s with drawn := s.drawn + 1 }

end Sys2Proof.Machine
end

