-- ==== Sys2Proof/Machine/ChannelMux.lean ====
section
/-! DEFINITION. The channel multiplexer (42_channel_mux.md): SELCH. -/

namespace Sys2Proof.Machine

/-- SELCH (R150): a field-scoped write of CHSEL with IR[4:0]. -/
def execSelch (s : State) : Result :=
  if s.seq = S_SELECT then .next ((s.writeFields .muxctl [(.chsel, s.irChannel)]).setSeq S_TRIGGER)
  else .next s

end Sys2Proof.Machine
end

