-- ==== Sys2Proof/Machine/Sequencer.lean ====
section
/-! DEFINITION. The command sequencer (41_adc_control_sequencer.md): ACCEPT, INITMUX, INITCTL. Here and in
the other families a micro-operation or event that is not enabled changes nothing: its agent holds
(R16; log 5). -/

namespace Sys2Proof.Machine

/-- An accepted word: IR, the event, SEQ (R131), and the port is free again (R40, log 6). -/
def State.take (s : State) (w : Byte) (next : BitVec 3) : State :=
  (((s.setIr w).emit (.cmd w)).setSeq next).setPort none

/-- The body of ACCEPT (R131), its tests in the rule's order. -/
def acceptWord (w : Byte) (s : State) : Result :=
  match trigResolve s.cfg.trig with
  | .unimplemented => .refused .autoTriggerUnimplemented
  | .aten _ =>
    match decodeCommand w with
    | .instr .init => if s.en then .refused .reInitialize else .next (s.take w S_INIT_MUX)
    | .instr (.read _) => if s.en then .next (s.take w S_SELECT) else .refused .readBeforeInitialize
    | .instr _ => .refused .reservedCommand
    | .rejected _ => .refused .reservedCommand

/-- ACCEPT (R131): enabled in S_IDLE when the host presents the word. -/
def execAccept (w : Byte) (s : State) : Result :=
  if s.seq = S_IDLE ∧ s.cmdPort = some w then acceptWord w s else .next s

/-- INITMUX (R133): REFS and JUST in one write of MUXCTL. -/
def execInitmux (s : State) : Result :=
  if s.seq = S_INIT_MUX then .next ((s.writeFields .muxctl (muxInit s.cfg)).setSeq S_INIT_CTL)
  else .next s

/-- INITCTL (R134): PRESC, IEN and EN in one write of CTLSTAT, then InitDone. -/
def execInitctl (s : State) : Result :=
  if s.seq = S_INIT_CTL then
    .next (((s.writeFields .ctlstat (ctlInit s.cfg)).emit .initDone).setSeq S_IDLE)
  else .next s

/-- `InitWrites(cfg, regs)` (R138): the two register writes of INITMUX and INITCTL on MUXCTL and CTLSTAT. -/
def initWrites (cfg : Cfg) (regs : Byte × Byte) : Byte × Byte :=
  (putFields (muxInit cfg) regs.1, putFields (ctlInit cfg) regs.2)

end Sys2Proof.Machine
end

