-- ==== Sys2Proof/Machine/Justifier.lean ====
section
/-! DEFINITION. The result justifier (44_result_justifier.md): Latch, Assemble, RET. -/

namespace Sys2Proof.Machine

/-- `Latch(j, raw)` (R180): the bytes (DATA_HI, DATA_LO) of a raw value. `x ++ 0b000000` of the rule is
`x` in the two high bits of the byte. -/
def latch (j : BitVec 1) (raw : Sample) : Byte × Byte :=
  if j = 0#1 then ((raw.extractLsb' 8 2).setWidth 8, raw.extractLsb' 0 8)
  else (raw.extractLsb' 2 8, (raw.extractLsb' 0 2).setWidth 8 <<< 6)

/-- `Assemble(j, hi, lo)` (R181): the sample made of two register halves, `hi[1:0] ++ lo` as the rule's
`((hi & 0x03) << 8) | lo`. -/
def assemble (j : Just) (hi lo : Byte) : Sample :=
  match j with
  | .right => ((hi.setWidth 10 &&& 0x003#10) <<< 8) ||| lo.setWidth 10
  | .left => hi.setWidth 10

/-- The two halves RET reads, in one step (R182, R186): the data registers when polled, the capture slot
in interrupt mode. -/
def State.resultHalves (s : State) : Byte × Byte :=
  match s.cfg.mode with
  | .polled => (s.dataHi, s.dataLo)
  | .interrupt => (s.captHi, s.captLo)

/-- The sample RET returns (R182). -/
def State.sample (s : State) : Sample :=
  assemble (assembleRoutine s.cfg) s.resultHalves.1 s.resultHalves.2

/-- RET (R182): the response, its event, and back to S_IDLE. -/
def execRet (s : State) : Result :=
  if s.seq = S_READY then
    .next (((s.setRsp (some s.sample)).emit (.ret s.sample)).setSeq S_IDLE)
  else .next s

end Sys2Proof.Machine
end

