-- ==== Sys2Proof/Machine/TriggerWait.lean ====
section
/-! DEFINITION. The trigger and wait machine (43_conversion_trigger_and_wait_fsm.md): TRIG, WAITP, WAITI
and the events CONV_DONE and NOTIFY. -/

namespace Sys2Proof.Machine

/-- TRIG (R161): START set and DONE cleared in one write of CTLSTAT, SIG cleared, ConvStart. -/
def execTrig (s : State) : Result :=
  if s.seq = S_TRIGGER then
    .next ((((s.writeFields .ctlstat [(.start, 1#8), (.done, 0#8)]).setSig false).emit
      (.convStart s.chsel s.refs)).setSeq S_WAIT)
  else .next s

/-- WAITP (R162): leave S_WAIT when START = 0, else poll again. -/
def execWaitp (s : State) : Result :=
  if s.seq = S_WAIT ∧ s.cfg.mode = .polled then
    if s.start then .next (s.setSeq S_WAIT) else .next (s.setSeq S_READY)
  else .next s

/-- WAITI (R163): consume the signal; with SIG = 0 the agent holds. -/
def execWaiti (s : State) : Result :=
  if s.seq = S_WAIT ∧ s.cfg.mode = .interrupt ∧ s.sig then .next ((s.setSig false).setSeq S_READY)
  else .next s

/-- CONV_DONE (R167): latch the raw value by MUXCTL.JUST, clear START and set DONE in one write. -/
def execConvDone (raw : Sample) (s : State) : Result :=
  if s.inFlight then
    let halves := latch s.justBit raw
    .next ((((s.emit (.convDone raw)).writeReg .dataHi halves.1).writeReg .dataLo halves.2).writeFields
      .ctlstat [(.start, 0#8), (.done, 1#8)])
  else .next s

/-- NOTIFY (R169): take the completion interrupt when it is pending. -/
def execNotify (s : State) : Result :=
  if s.irqPending then .next (takeCompletionInterrupt s) else .next s

end Sys2Proof.Machine
end

