-- ==== Sys2Proof/Machine/Commands.lean ====
section
/-! DEFINITION. The two commands INIT and READ (R130, R132, R135): the host presents the word, and when the
block is idle the command is carried out as the rule's sequence of micro-operations and events. -/

namespace Sys2Proof.Machine

/-- A command presented by the host and carried out. A block that is not idle does not take the word: it
waits at the port (R40, R139). -/
def carryOut (w : Byte) (rest : State → Result) (s : State) : Result :=
  let p := s.setPort (some w)
  if p.seq = S_IDLE then andThen (execAccept w p) rest else .next p

/-- INIT (R132): ACCEPT(0x00), INITMUX, INITCTL. -/
def execInit (s : State) : Result :=
  carryOut initWord (fun s => andThen (execInitmux s) execInitctl) s

/-- The CONV agent's answer to the conversion a READ started (R135: "given that the CONV agent answers"). -/
def converterAnswers (s : State) : Result :=
  execConvDone s.nextRaw s.afterRaw

/-- The end of the wait (R135): when polled, WAITP once with progress; in interrupt mode NOTIFY, then WAITI. -/
def finishWait (s : State) : Result :=
  match s.cfg.mode with
  | .polled => execWaitp s
  | .interrupt => andThen (execNotify s) execWaiti

/-- READ (R135): ACCEPT(0x20 | channel), SELCH, TRIG, CONV_DONE, the wait, RET. -/
def execRead (channel : BitVec 5) (s : State) : Result :=
  carryOut (readWord channel) (fun s =>
    andThen (execSelch s) fun s =>
    andThen (execTrig s) fun s =>
    andThen (converterAnswers s) fun s =>
    andThen (finishWait s) execRet) s

end Sys2Proof.Machine
end

