-- ==== Sys2Proof/Machine/Dispatch.lean ====
section
/-! DEFINITION. The dispatch: one arm per constructor of Instr, each a call of that row's own meaning. -/

namespace Sys2Proof.Machine

/-- What an instruction does. -/
def exec (i : Instr) (s : State) : Host.Outcome State Fault Refusal :=
  match i with
  | .init => Sys2Proof.Machine.execInit s
  | .read channel => Sys2Proof.Machine.execRead channel s
  | .accept word => Sys2Proof.Machine.execAccept word s
  | .selch => Sys2Proof.Machine.execSelch s
  | .trig => Sys2Proof.Machine.execTrig s
  | .waitp => Sys2Proof.Machine.execWaitp s
  | .waiti => Sys2Proof.Machine.execWaiti s
  | .ret => Sys2Proof.Machine.execRet s
  | .initmux => Sys2Proof.Machine.execInitmux s
  | .initctl => Sys2Proof.Machine.execInitctl s
  | .convDone raw => Sys2Proof.Machine.execConvDone raw s
  | .notify => Sys2Proof.Machine.execNotify s

end Sys2Proof.Machine
end

