-- ==== Sys2Proof/Machine/Ports.lean ====
section
/-! DEFINITION. The ports that are plain functions of the state (R40 to R43). The inputs of the analog-core
port are the operand of CONV_DONE; clk and rst are steps, not signals (R220). -/

namespace Sys2Proof.Machine

/-- `cmd_ready` (R40). -/
def State.cmdReady (s : State) : Bool := s.seq = S_IDLE

/-- `cmd_valid` (R40). -/
def State.cmdValid (s : State) : Bool := s.cmdPort.isSome

/-- `rsp_valid` (R41). -/
def State.rspValid (s : State) : Bool := s.rsp.isSome

/-- `adc_enable` (R42). -/
def State.adcEnable (s : State) : Bool := s.en

/-- `mux_sel[4:0]` (R42, R151). -/
def State.muxSel (s : State) : BitVec 5 := s.chsel

/-- `ref_sel[1:0]` (R42). -/
def State.refSel (s : State) : BitVec 2 := s.refs

/-- `clk_div_sel[2:0]` (R42). -/
def State.clkDivSel (s : State) : BitVec 3 := s.presc

/-- `conv_request` (R42). -/
def State.convRequest (s : State) : Bool := s.start

/-- `irq` (R43, R207). -/
def State.irq (s : State) : Bool := s.irqPending

end Sys2Proof.Machine
end

