-- ==== Sys2Proof/Machine/Turns.lean ====
section
/-! DEFINITION. The turns of a step (R13): what an agent is given to decode, the host's move (R40, R140),
reset during a run (R220, R222), the reserved states (R95, R143), and how a word of the opcode table is
placed where the next step takes it. -/

namespace Sys2Proof.Machine

/-- The HOST step: with the port free, present the next word of its list (R40, R131). While a word waits,
or when the list is empty, the host has no move. -/
def hostPresents (s : State) : State :=
  match s.cmdPort, s.cmds with
  | none, w :: rest => (s.setCmds rest).setPort (some w)
  | _, _ => s

/-- Reset during a run (R220): every piece of the block's state but the history takes its reset value. The
configuration, the host's port and list and the model's own fields are not the block's state (log 9). -/
def resetInRun (s : State) : State :=
  { State.resetOf s.cfg with
    history := s.history, cmdPort := s.cmdPort, cmds := s.cmds, turns := s.turns, answers := s.answers,
    drawn := s.drawn }

/-- The reserved value a state contains, if any: such a state is outside the spec (R95, R143). -/
def reservedValue (s : State) : Option Refusal :=
  if s.seq = 7#3 then some .reservedSequencerState
  else if s.refs = 0b10#2 then some .reservedReference
  else if 7 < s.chsel.toNat then some .reservedChannel
  else if s.aten then some .reservedAutoTriggerBit
  else none

/-- What the SEQ agent decodes (R91, R92): SEQ, and in S_IDLE the presented word. With no word presented
the agent holds (R131). -/
def fetchSeq (s : State) : Option Code :=
  if s.seq = S_IDLE then s.cmdPort.map (.seq s.seq s.cfg.mode) else some (.seq s.seq s.cfg.mode 0#8)

/-- Run what a coded form decodes to, in state `s`; a form that names no instruction is no step of its
agent (R16), and leaves `held`. -/
def runCode (c : Code) (s held : State) : Result :=
  match decode c with
  | .instr i => exec i s
  | .rejected _ => .next held

/-- The SEQ agent's turn. -/
def seqTurn (s : State) : Result :=
  match fetchSeq s with
  | some c => runCode c s s
  | none => .next s

/-- The CONV agent's turn: it takes the next raw value only when CONV_DONE is enabled (R167). -/
def convTurn (s : State) : Result :=
  runCode (.conv s.ctlstat s.nextRaw) s.afterRaw s

/-- The NOTIFY agent's turn. -/
def notifyTurn (s : State) : Result :=
  runCode (.notify s.ctlstat) s s

/-- A whole command (log 4): the host presents its next word, and the word on the port is run as the
command it decodes to. A reserved word meets ACCEPT, which refuses it (R94, R131). -/
def commandTurn (s : State) : Result :=
  let p := hostPresents s
  match p.cmdPort with
  | none => .next p
  | some w =>
    match decode (.cmd w) with
    | .instr i => exec i p
    | .rejected _ => exec (.accept w) p

/-- The step of the agent whose turn it is. -/
def runTurn (t : Turn) (s : State) : Result :=
  match t with
  | .host => .next (hostPresents s)
  | .seq => seqTurn s
  | .conv => convTurn s
  | .notify => notifyTurn s
  | .command => commandTurn s
  | .rst => .next (resetInRun s)

/-- The state an agent's step begins from: its turn taken off the schedule, and no response yet in this
step (R41, log 7). -/
def State.beginStep (s : State) : State := s.afterTurn.setRsp none

/-- One step: a state with a reserved value is refused (R95, R143); else the next turn is run. -/
def stepOnce (s : State) : Result :=
  match reservedValue s with
  | some why => .refused why
  | none => runTurn s.nextTurn s.beginStep

/-- The HOST agent has a move: its next word and a free port (R40). -/
def State.hostEnabled (s : State) : Bool := s.cmdPort.isNone && !s.cmds.isEmpty

/-- The SEQ agent has a step (R131, R143, R162, R163): not without a word in S_IDLE, not without the signal
in S_WAIT in interrupt mode, not at SEQ = 7. -/
def State.seqEnabled (s : State) : Bool :=
  if s.seq = S_IDLE then s.cmdValid
  else if s.seq = S_WAIT then (s.cfg.mode = .polled) || s.sig
  else s.seq ≠ 7#3

/-- The agent of a turn has a step. A `command` turn has one when the host or the SEQ agent can begin it;
reset is never waited for. -/
def State.enabled (t : Turn) (s : State) : Bool :=
  match t with
  | .host => s.hostEnabled
  | .seq => s.seqEnabled
  | .conv => s.inFlight
  | .notify => s.irqPending
  | .command => s.hostEnabled || (s.cmdReady && s.cmdValid)
  | .rst => true

/-- Put a coded form where the next step takes it: the turn, and what its agent decodes (log 11). A command
word goes to the port as a whole command. A SEQ code goes to SEQ; S_IDLE brings the presented word, S_WAIT
the mode that selects the routine. An event's guard bits go to CTLSTAT; CONV_DONE brings its raw value. -/
def placeCode (c : Code) (s : State) : State :=
  match c with
  | .cmd w => { s with cmdPort := some w, turns := .command :: s.turns }
  | .seq code mode w =>
    { s with
      seq := code, turns := .seq :: s.turns,
      cmdPort := if code = S_IDLE then some w else s.cmdPort,
      cfg := if code = S_WAIT then { s.cfg with mode } else s.cfg }
  | .conv ctlstat raw =>
    { s with
      ctlstat := s.ctlstat ||| (ctlstat &&& 0xC0#8), answers := raw :: s.answers, turns := .conv :: s.turns }
  | .notify ctlstat =>
    { s with ctlstat := s.ctlstat ||| (ctlstat &&& 0x18#8), turns := .notify :: s.turns }

end Sys2Proof.Machine
end

