-- ==== Sys2Proof/Machine/Step.lean ====
section
/-! DEFINITION. The step, and the placing of a word of the opcode table for the next step. -/

namespace Sys2Proof.Machine

/-- One step of the machine (R13, R16, R72). -/
def step (s : State) : Host.Outcome State Fault Refusal := stepOnce s

/-- `s` with a word of spec/opcode_table.json placed so that the very next step runs it (log 11). -/
def State.withFetchWord (s : State) (nbits w : Nat) : State := placeCode (tableCode nbits w) s

end Sys2Proof.Machine
end

