-- ==== Sys2Proof/Machine/CommandText.lean ====
section
/-! DEFINITION. The textual syntax of a command list (R98): `INIT` or `READ <channel>`, one a line, with the
source's own names accepted as spellings. Text is a list of characters. -/

namespace Sys2Proof.Machine

/-- The value of a decimal digit. -/
def digit (c : Char) : Option Nat :=
  if '0' ≤ c ∧ c ≤ '9' then some (c.toNat - '0'.toNat) else none

/-- A decimal integer, digit by digit, after `acc`. -/
def decimalFrom (acc : Nat) : List Char → Option Nat
  | [] => some acc
  | c :: rest =>
    match digit c with
    | some d => decimalFrom (10 * acc + d) rest
    | none => none

/-- A decimal integer of at least one digit (R98). -/
def decimal : List Char → Option Nat
  | [] => none
  | cs => decimalFrom 0 cs

/-- The rest of `cs` after the word `pre`, if `cs` begins with it. -/
def afterWord : List Char → List Char → Option (List Char)
  | [], cs => some cs
  | p :: pre, c :: cs => if p = c then afterWord pre cs else none
  | _ :: _, [] => none

/-- `cs` without the closing bracket it ends with. -/
def beforeBracket (cs : List Char) : Option (List Char) :=
  match cs.reverse with
  | ')' :: rest => some rest.reverse
  | _ => none

/-- The word of a READ whose channel was written as `cs`. A channel above 31 has no word (R93); 8 to 31
have one, which is reserved (R94). -/
def readText (cs : List Char) : Option Byte :=
  match decimal cs with
  | some n => if n < 32 then some (readWord (BitVec.ofNat 5 n)) else none
  | none => none

/-- The command word of one line (R98): INIT, Initialize() or init; READ c, ReadChannel(c) or read(c). -/
def commandWord (line : List Char) : Option Byte :=
  if line = ['I', 'N', 'I', 'T'] then some initWord
  else if line = ['I', 'n', 'i', 't', 'i', 'a', 'l', 'i', 'z', 'e', '(', ')'] then some initWord
  else if line = ['i', 'n', 'i', 't'] then some initWord
  else
    match afterWord ['R', 'E', 'A', 'D', ' '] line with
    | some cs => readText cs
    | none =>
      match afterWord ['R', 'e', 'a', 'd', 'C', 'h', 'a', 'n', 'n', 'e', 'l', '('] line with
      | some cs => (beforeBracket cs).bind readText
      | none =>
        match afterWord ['r', 'e', 'a', 'd', '('] line with
        | some cs => (beforeBracket cs).bind readText
        | none => none

/-- The command words of a command list, one command a line (R98); `none` if a line is no command. -/
def commandList : List (List Char) → Option (List Byte)
  | [] => some []
  | line :: rest =>
    match commandWord line, commandList rest with
    | some w, some ws => some (w :: ws)
    | _, _ => none

end Sys2Proof.Machine
end

