-- ==== Sys2Proof/Safety.lean ====
section
/-! DEFINITION. What a safe run is: the invariants of every reachable state (R45), the freshness of the
result (R172), the duties of the host (R140), final and stuck states (R141), infinite runs with the premise
`ConverterResponds` (R168) and weak fairness (R230). -/

namespace Sys2Proof.Machine

/-! The invariants of R45. -/

/-- REFS and JUST hold the resolved codes (R118). -/
def MuxResolved (s : State) : Prop :=
  s.refs = refCode s.cfg.ref ∧ s.justBit = justCode s.cfg.just

/-- PRESC and IEN hold the resolved codes (R118). -/
def CtlResolved (s : State) : Prop :=
  s.presc = prescCode s.cfg.presc ∧ (s.ien = true ↔ s.cfg.mode = .interrupt)

/-- The invariant of every reachable state: the items of R45 that speak of one state, and what an induction
over the steps needs beside them. -/
structure Inv (s : State) : Prop where
  /-- R45 (1). -/
  atenClear : s.aten = false
  /-- R45 (2). -/
  resolved : s.en = true → MuxResolved s ∧ CtlResolved s
  /-- R45 (3). -/
  startOnlyInWait : s.start = true → s.seq = S_WAIT
  /-- R45 (4). -/
  sigOnlyInWait : s.sig = true → s.seq = S_WAIT ∧ s.cfg.mode = .interrupt
  /-- R45 (5). -/
  startDoneApart : ¬ (s.start = true ∧ s.done = true)
  /-- R45 (7). -/
  channelLegal : s.chsel.toNat ≤ 7
  /-- R45 (8). -/
  seqLegal : s.seq ≠ 7#3
  /-- R95: REFS never holds the reserved code. -/
  refsLegal : s.refs ≠ 0b10#2
  /-- INITMUX has run before INITCTL (R133, R134). -/
  muxBeforeCtl : s.seq = S_INIT_CTL → MuxResolved s
  /-- Before INIT has finished nothing is in flight, complete or enabled (R221). -/
  quietUntilInit : s.en = false → s.start = false ∧ s.done = false ∧ s.ien = false
  /-- INIT's two writes happen with the peripheral disabled (R137). -/
  initWhileDisabled : s.seq = S_INIT_MUX ∨ s.seq = S_INIT_CTL → s.en = false
  /-- A READ is carried out with the peripheral enabled (R136). -/
  readWhileEnabled :
    s.seq = S_SELECT ∨ s.seq = S_TRIGGER ∨ s.seq = S_WAIT ∨ s.seq = S_READY → s.en = true
  /-- SELCH reads the IR of an accepted READ (R45 (6), R150). -/
  irIsRead : s.seq = S_SELECT → s.ir &&& 0xF8#8 = 0x20#8
  /-- While a polled wait lasts, DONE is the complement of START (R171). -/
  pollAgrees : s.cfg.mode = .polled → s.seq = S_WAIT → s.done = !s.start
  /-- In an interrupt-driven wait the conversion is in flight, complete or signalled (R170). -/
  waitProgress : s.cfg.mode = .interrupt → s.seq = S_WAIT →
    s.start = true ∨ s.done = true ∨ s.sig = true
  /-- ... and it is signalled only once it is neither in flight nor unacknowledged (R170). -/
  signalLast : s.sig = true → s.start = false ∧ s.done = false
  /-- In interrupt mode DONE is acknowledged before the wait ends (R201). -/
  doneOnlyInWait : s.cfg.mode = .interrupt → s.done = true → s.seq = S_WAIT

/-! Freshness of the result (R172, R232). -/

/-- The answer to the conversion started last: the raw value of the ConvDone after the last ConvStart. -/
def answerAfter (answer : Option Sample) : Event → Option Sample
  | .convStart _ _ => none
  | .convDone raw => some raw
  | _ => answer

/-- The raw value of the conversion started last, once it has been delivered. -/
def lastAnswer (history : List Event) : Option Sample :=
  history.foldl answerAfter none

/-- The sample a READ returns for a raw value (R135): all ten bits, or the upper eight. -/
def sampleOf : Just → Sample → Sample
  | .right, raw => raw
  | .left, raw => raw >>> 2

/-- Once the conversion of the READ at work is complete, the data registers hold its result, and once it is
signalled the capture slot holds it too (R45 (6), R172, R186). -/
structure Fresh (s : State) : Prop where
  data : (s.seq = S_WAIT ∧ s.start = false) ∨ s.seq = S_READY →
    ∃ raw, lastAnswer s.history = some raw ∧ (s.dataHi, s.dataLo) = latch s.justBit raw
  captured : s.cfg.mode = .interrupt → s.sig = true ∨ s.seq = S_READY →
    (s.captHi, s.captLo) = (s.dataHi, s.dataLo)

/-! The duties of the host (R140). -/

/-- Whether a list of words keeps the duties: defined words only, INIT at most once and before any READ.
DESIGN CHOICE (log 21): R140 does not say whether a host that presents no word keeps the duty to send INIT
"exactly once, before any READ"; here it does, because a word still to come may be that INIT. -/
def dutiful (initialised : Bool) : List Byte → Bool
  | [] => true
  | w :: rest =>
    match decodeCommand w with
    | .instr .init => !initialised && dutiful true rest
    | .instr (.read _) => initialised && dutiful true rest
    | _ => false

/-- INIT has been accepted since the last reset. -/
def State.initAccepted (s : State) : Bool :=
  s.en || s.seq = S_INIT_MUX || s.seq = S_INIT_CTL

/-- The words accepted after this state: the one at the port, then the host's list. -/
def State.pending (s : State) : List Byte := s.cmdPort.toList ++ s.cmds

/-- The host keeps its duties from here on, and the configuration is one the block implements (R8, R140). -/
def HostKeepsDuties (s : State) : Prop :=
  s.cfg.admitted = true ∧ dutiful s.initAccepted s.pending = true

/-! The end of a run (R141). -/

/-- Every word accepted, SEQ idle, no conversion requested, NOTIFY not enabled. -/
def State.isFinal (s : State) : Bool :=
  s.pending.isEmpty && s.seq = S_IDLE && !s.start && !s.irqPending

/-- No agent has an enabled step, and the state is not final. DESIGN CHOICE (log 20): a converter that will
never answer counts as having an enabled step while EN = START = 1, as R167 has it, so the hang of R165 is not
stuck; `isStuckIfSilent` is the other reading, that of R141's exception and of program P4. -/
def State.isStuck (s : State) : Bool :=
  !s.isFinal && !(s.enabled .host || s.enabled .seq || s.enabled .conv || s.enabled .notify)

/-- The same with a CONV agent that stays silent for ever, and so has no step (R141, R165; log 20). -/
def State.isStuckIfSilent (s : State) : Bool :=
  !s.isFinal && !(s.enabled .host || s.enabled .seq || s.enabled .notify)

/-! Infinite runs under a schedule from outside (R72: any order of the agents). -/

/-- The turn `t` put before the state's own turns. -/
def State.withTurn (s : State) (t : Turn) : State := { s with turns := t :: s.turns }

/-- An infinite run: each state steps to the next, in the turn the schedule gives. A refused run is none
(R16). -/
def IsRun (sched : Nat → Turn) (r : Nat → State) : Prop :=
  ∀ n, step ((r n).withTurn (sched n)) = .next (r (n + 1))

/-- `ConverterResponds` (R168): a conversion in flight is answered by a CONV_DONE step, sooner or later. -/
def ConverterResponds (sched : Nat → Turn) (r : Nat → State) : Prop :=
  ∀ n, (r n).inFlight = true → ∃ m, n ≤ m ∧ sched m = .conv ∧ (r m).inFlight = true

/-- Weak fairness of an agent (R230): if its step stays enabled, it takes it. -/
def WeaklyFair (t : Turn) (sched : Nat → Turn) (r : Nat → State) : Prop :=
  ∀ n, (∀ m, n ≤ m → (r m).enabled t = true) → ∃ m, n ≤ m ∧ sched m = t

/-- No reset falls in the run: one reset-to-reset span (R222). -/
def NoReset (sched : Nat → Turn) : Prop := ∀ n, sched n ≠ .rst

/-- The turns of a polled READ by single steps: ACCEPT, SELCH, TRIG, so many polls without progress,
CONV_DONE, the last poll, RET (R135). -/
def polledReadTurns (polls : Nat) : List Turn :=
  Turn.seq :: Turn.seq :: Turn.seq :: (List.replicate polls Turn.seq ++ [Turn.conv, Turn.seq, Turn.seq])

/-- The turns of an interrupt-driven READ by single steps: ACCEPT, SELCH, TRIG, the SEQ agent holding for
`j` turns, CONV_DONE, holding for `k` turns, NOTIFY, WAITI, RET (R135). -/
def interruptReadTurns (j k : Nat) : List Turn :=
  Turn.seq :: Turn.seq :: Turn.seq :: (List.replicate j Turn.seq ++
    Turn.conv :: (List.replicate k Turn.seq ++ [Turn.notify, Turn.seq, Turn.seq]))

/-- WAITP as it would be if it polled the completion flag instead (R171). -/
def waitpOnDone (s : State) : Result :=
  if s.seq = S_WAIT ∧ s.cfg.mode = .polled then
    if s.done then .next (s.setSeq S_READY) else .next (s.setSeq S_WAIT)
  else .next s

end Sys2Proof.Machine
end

