-- ==== Sys2Proof/Certificates/Slice0/Obligations.lean ====
section
/-! DEFINITION. The statements for the provers. Each is about the machine, for every state and every
configuration unless it says otherwise; nothing is proved here. -/

open Sys2Proof Sys2Proof.Machine

/-! ## Reset, encoding, field access -/

/-- R44, R221: the state after reset, for every configuration. -/
def Obligations.ResetStateIsTheResetTable : Prop :=
  ∀ cfg : Cfg, let s := State.resetOf cfg
    s.muxctl = 0x00#8 ∧ s.ctlstat = 0x00#8 ∧ s.dataLo = 0x00#8 ∧ s.dataHi = 0x00#8 ∧ s.seq = S_IDLE ∧
    s.ir = 0x00#8 ∧ s.sig = false ∧ s.captLo = 0x00#8 ∧ s.captHi = 0x00#8 ∧ s.history = [] ∧
    s.en = false ∧ s.start = false ∧ s.aten = false ∧ s.done = false ∧ s.ien = false ∧ s.presc = 0b000#3 ∧
    s.refs = refCode .aref ∧ s.justBit = justCode .right ∧ s.chsel = 0#5 ∧ s.irq = false ∧
    s.cmdReady = true

/-- Words written out from the tables of R82, R83, R85 and R91 decode to the instructions they stand for. -/
def Obligations.SpecWordsDecodeToTheirInstructions : Prop :=
  decode (.cmd 0b00000000#8) = .instr .init ∧
  decode (.cmd 0b00100011#8) = .instr (.read 3#5) ∧
  decode (.cmd 0b00100111#8) = .instr (.read 7#5) ∧
  decode (.cmd 0b00101000#8) = .rejected .channelOutOfRange ∧
  decode (.seq 0b000#3 .polled 0b00100011#8) = .instr (.accept 0x23#8) ∧
  decode (.seq 0b001#3 .polled 0#8) = .instr .selch ∧
  decode (.seq 0b010#3 .interrupt 0#8) = .instr .trig ∧
  decode (.seq 0b011#3 .polled 0#8) = .instr .waitp ∧
  decode (.seq 0b011#3 .interrupt 0#8) = .instr .waiti ∧
  decode (.seq 0b100#3 .polled 0#8) = .instr .ret ∧
  decode (.seq 0b101#3 .polled 0#8) = .instr .initmux ∧
  decode (.seq 0b110#3 .polled 0#8) = .instr .initctl ∧
  decode (.seq 0b111#3 .polled 0#8) = .rejected .reservedSeqCode ∧
  decode (.conv 0b11000111#8 0x2A5#10) = .instr (.convDone 0x2A5#10) ∧
  decode (.conv 0b10010111#8 0x2A5#10) = .rejected .convDoneNotEnabled ∧
  decode (.notify 0b10011111#8) = .instr .notify ∧
  decode (.notify 0b10010111#8) = .rejected .notifyNotEnabled

/-- The round trip, both ways: decoding the encoding of a well-formed instruction gives it back with every
operand, and a command word that decodes to an instruction is the encoding of that instruction. -/
def Obligations.DecodeAndEncodeAgree : Prop :=
  (∀ i : Instr, i.wellFormed = true → decode (encode i) = .instr i) ∧
  (∀ (w : Byte) (i : Instr), decode (.cmd w) = .instr i → i.wellFormed = true ∧ encode i = .cmd w) ∧
  (∀ i : Instr, i.wellFormed = false → ∃ why, decode (encode i) = .rejected why)

/-- R97 and R91 with R92, over every coded form: which forms name an instruction, and which one. -/
def Obligations.CodedFormsNameTheirInstruction : Prop :=
  (∀ (c : Byte) (raw : Sample), decode (.conv c raw) = .instr (.convDone raw) ↔ c &&& 0xC0#8 = 0xC0#8) ∧
  (∀ c : Byte, decode (.notify c) = .instr .notify ↔ c &&& 0x18#8 = 0x18#8) ∧
  (∀ (code : BitVec 3) (mode : Mode) (w : Byte),
    (decode (.seq code mode w) = .instr (.accept w) ↔ code = 0#3) ∧
    (decode (.seq code mode w) = .instr .selch ↔ code = 1#3) ∧
    (decode (.seq code mode w) = .instr .trig ↔ code = 2#3) ∧
    (decode (.seq code mode w) = .instr .waitp ↔ code = 3#3 ∧ mode = .polled) ∧
    (decode (.seq code mode w) = .instr .waiti ↔ code = 3#3 ∧ mode = .interrupt) ∧
    (decode (.seq code mode w) = .instr .ret ↔ code = 4#3) ∧
    (decode (.seq code mode w) = .instr .initmux ↔ code = 5#3) ∧
    (decode (.seq code mode w) = .instr .initctl ↔ code = 6#3) ∧
    (decode (.seq code mode w) = .rejected .reservedSeqCode ↔ code = 7#3))

/-- R63: a FieldWrite gives the field the new value whatever the old one was, keeps every bit outside the
field, is not additive, and FieldWrites to two fields of a register may be made in either order. -/
def Obligations.FieldWriteReplacesExactlyItsField : Prop :=
  ∀ (f : Field) (v b : Byte), v.toNat < 2 ^ fieldWidth f →
    fieldGet f (fieldPut f v b) = v ∧
    (∀ i < 8, (i < fieldLo f ∨ fieldLo f + fieldWidth f ≤ i) →
      (fieldPut f v b).getLsbD i = b.getLsbD i) ∧
    fieldPut f v (fieldPut f v b) = fieldPut f v b ∧
    (∀ (g : Field) (u : Byte), g ≠ f → fieldReg g = fieldReg f →
      fieldGet g (fieldPut f v b) = fieldGet g b ∧
      fieldPut f v (fieldPut g u b) = fieldPut g u (fieldPut f v b))

/-- R63, R64 (b): the checked FieldWrite answers a next state exactly when the value fits its field: one
write of the field's register, recorded as one event, with the rest of the state as it was. A wider value is
refused. That this operation, which is no step, is recorded is the model's choice (log 12). -/
def Obligations.FieldWriteIsBoundsChecked : Prop :=
  ∀ (f : Field) (v : Nat) (s : State),
    let new := fieldPut f (BitVec.ofNat 8 v) (s.reg (fieldReg f))
    (v < 2 ^ fieldWidth f → ∃ t, fieldWrite f v s = .next t ∧
      t.reg (fieldReg f) = new ∧ (∀ r, r ≠ fieldReg f → t.reg r = s.reg r) ∧
      t = { s with
        muxctl := t.muxctl, ctlstat := t.ctlstat, dataLo := t.dataLo, dataHi := t.dataHi,
        history := s.history ++ [.regWr (fieldReg f) (s.reg (fieldReg f)) new] }) ∧
    (2 ^ fieldWidth f ≤ v → fieldWrite f v s = .refused (.fieldValueTooWide f v))

/-- R15, R64 (a), R70: under any injective address map the four addresses read and write the four registers
and nothing else, and every other address is refused. A write is recorded as one event and leaves the rest of
the state as it was; that a write through an address is recorded at all is the model's choice (log 12). -/
def Obligations.RegisterSpaceReadsAndWrites : Prop :=
  ∀ regAddr : Reg → Nat, addrMapOk regAddr = true → ∀ s : State,
    (∀ r, memRead regAddr (regAddr r) s = .ok (s.reg r)) ∧
    (∀ r v, ∃ t, memWrite regAddr (regAddr r) v s = .next t ∧
      memRead regAddr (regAddr r) t = .ok v ∧
      (∀ q, q ≠ r → memRead regAddr (regAddr q) t = memRead regAddr (regAddr q) s) ∧
      t = { s with
        muxctl := t.muxctl, ctlstat := t.ctlstat, dataLo := t.dataLo, dataHi := t.dataHi,
        history := s.history ++ [.regWr r (s.reg r) v] }) ∧
    (∀ a v, (∀ r, regAddr r ≠ a) →
      memRead regAddr a s = .error (.unmappedRegister a) ∧
      memWrite regAddr a v s = .refused (.unmappedRegister a))

/-! ## The configuration resolver -/

/-- R118: MUXCTL and CTLSTAT after a reset and one INIT. -/
def Obligations.ResolvedPatternsAfterResetAndInit : Prop :=
  ∀ cfg : Cfg, cfg.trig = .disabled → ∃ t, exec .init (State.resetOf cfg) = .next t ∧
    t.muxctl = ((refCode cfg.ref).setWidth 8 <<< 6) ||| ((justCode cfg.just).setWidth 8 <<< 5) ∧
    t.ctlstat = 0x80#8 ||| ((ienCode cfg.mode).setWidth 8 <<< 3) ||| (prescCode cfg.presc).setWidth 8

/-- R119: two admitted configurations with the same pair of patterns are the same configuration. -/
def Obligations.ResolvedPatternsTellConfigurationsApart : Prop :=
  ∀ c d : Cfg, c.admitted = true → d.admitted = true → ∀ t u,
    exec .init (State.resetOf c) = .next t → exec .init (State.resetOf d) = .next u →
    t.muxctl = u.muxctl → t.ctlstat = u.ctlstat → c = d

/-- R113, R116: elaboration of raw numbers gives the configuration they name, and refuses every number
outside its axis. -/
def Obligations.ElaborationAdmitsExactlyTheClosedSets : Prop :=
  (∀ c : Cfg, elaborate ⟨(refCode c.ref).toNat, (justCode c.just).toNat, c.trig, (ienCode c.mode).toNat,
      divisor c.presc⟩ = some c) ∧
  (∀ c : Cfg, divisor c.presc = 2 ^ (prescCode c.presc).toNat) ∧
  (∀ r : RawCfg, elaborate r = none ↔
    ¬ (r.ref ∈ [0b00, 0b01, 0b11] ∧ r.just ∈ [0, 1] ∧ r.mode ∈ [0, 1] ∧
       r.divisor ∈ [2, 4, 8, 16, 32, 64, 128]))

/-- R138: `initWrites` is what INITMUX and then INITCTL leave of MUXCTL and CTLSTAT, and performing the two
writes twice gives what once gives, as a function and by the micro-operations themselves. -/
def Obligations.InitWritesAreIdempotent : Prop :=
  (∀ s : State, s.seq = S_INIT_MUX → ∃ m t, exec .initmux s = .next m ∧ exec .initctl m = .next t ∧
    (t.muxctl, t.ctlstat) = initWrites s.cfg (s.muxctl, s.ctlstat) ∧
    ∃ m' t', exec .initmux (t.setSeq S_INIT_MUX) = .next m' ∧ exec .initctl m' = .next t' ∧
      (t'.muxctl, t'.ctlstat) = (t.muxctl, t.ctlstat)) ∧
  (∀ (cfg : Cfg) (regs : Byte × Byte), initWrites cfg (initWrites cfg regs) = initWrites cfg regs)

/-! ## Each instruction: its whole next state -/

/-- R131: ACCEPT, every case of its rule, in the rule's order. That ACCEPT frees the port
(`cmdPort := none`) is the model's choice (log 6). -/
def Obligations.AcceptFollowsItsRule : Prop :=
  ∀ (s : State) (w : Byte), s.seq = S_IDLE → s.cmdPort = some w →
    (s.cfg.trig ≠ .disabled → exec (.accept w) s = .refused .autoTriggerUnimplemented) ∧
    (s.cfg.trig = .disabled →
      (w ≠ 0x00#8 → ¬ (0x20 ≤ w.toNat ∧ w.toNat ≤ 0x27) →
        exec (.accept w) s = .refused .reservedCommand) ∧
      (w = 0x00#8 → s.en = true → exec (.accept w) s = .refused .reInitialize) ∧
      (w = 0x00#8 → s.en = false → exec (.accept w) s =
        .next { s with ir := w, seq := S_INIT_MUX, cmdPort := none, history := s.history ++ [.cmd w] }) ∧
      (0x20 ≤ w.toNat → w.toNat ≤ 0x27 → s.en = false →
        exec (.accept w) s = .refused .readBeforeInitialize) ∧
      (0x20 ≤ w.toNat → w.toNat ≤ 0x27 → s.en = true → exec (.accept w) s =
        .next { s with ir := w, seq := S_SELECT, cmdPort := none, history := s.history ++ [.cmd w] }))

/-- R133: INITMUX writes REFS and JUST, keeps CHSEL, and nothing else but SEQ and the history changes. -/
def Obligations.InitmuxWritesReferenceAndJustification : Prop :=
  ∀ s : State, s.seq = S_INIT_MUX →
    let m : Byte := (s.muxctl &&& 0x1F#8) ||| ((refCode s.cfg.ref).setWidth 8 <<< 6) |||
      ((justCode s.cfg.just).setWidth 8 <<< 5)
    exec .initmux s =
      .next { s with muxctl := m, seq := S_INIT_CTL, history := s.history ++ [.regWr .muxctl s.muxctl m] }

/-- R134: INITCTL writes PRESC, IEN and EN = 1, keeps START, ATEN and DONE. -/
def Obligations.InitctlWritesPrescalerAndEnables : Prop :=
  ∀ s : State, s.seq = S_INIT_CTL →
    let c : Byte := (s.ctlstat &&& 0x70#8) ||| 0x80#8 ||| ((ienCode s.cfg.mode).setWidth 8 <<< 3) |||
      (prescCode s.cfg.presc).setWidth 8
    exec .initctl s =
      .next { s with
        ctlstat := c, seq := S_IDLE, history := s.history ++ [.regWr .ctlstat s.ctlstat c, .initDone] }

/-- R150, R152: SELCH replaces CHSEL by IR[4:0] and keeps REFS and JUST, for every MUXCTL value. -/
def Obligations.SelchReplacesTheChannelOnly : Prop :=
  ∀ s : State, s.seq = S_SELECT →
    let m : Byte := (s.muxctl &&& 0xE0#8) ||| (s.ir &&& 0x1F#8)
    exec .selch s =
      .next { s with muxctl := m, seq := S_TRIGGER, history := s.history ++ [.regWr .muxctl s.muxctl m] }

/-- R161: TRIG sets START, clears DONE and SIG, keeps the other bits of CTLSTAT. -/
def Obligations.TrigStartsTheConversion : Prop :=
  ∀ s : State, s.seq = S_TRIGGER →
    let c : Byte := (s.ctlstat &&& 0xAF#8) ||| 0x40#8
    exec .trig s =
      .next { s with
        ctlstat := c, sig := false, seq := S_WAIT,
        history := s.history ++ [.regWr .ctlstat s.ctlstat c,
          .convStart (s.muxctl.setWidth 5) ((s.muxctl >>> 6).setWidth 2)] }

/-- R162: WAITP leaves S_WAIT exactly when START = 0 and else changes nothing. -/
def Obligations.WaitpTestsTheStartBit : Prop :=
  ∀ s : State, s.seq = S_WAIT → s.cfg.mode = .polled →
    (s.ctlstat &&& 0x40#8 = 0#8 → exec .waitp s = .next { s with seq := S_READY }) ∧
    (s.ctlstat &&& 0x40#8 ≠ 0#8 → exec .waitp s = .next s)

/-- R163: WAITI consumes the signal. That without one, where R163 has the agent hold (R16), it answers the same
state is the model's reading (log 5, DEDUCED). -/
def Obligations.WaitiConsumesTheSignal : Prop :=
  ∀ s : State, s.seq = S_WAIT → s.cfg.mode = .interrupt →
    (s.sig = true → exec .waiti s = .next { s with sig := false, seq := S_READY }) ∧
    (s.sig = false → exec .waiti s = .next s)

/-- R167 with R180: CONV_DONE latches the raw value as MUXCTL.JUST says, clears START and sets DONE. -/
def Obligations.ConvDoneLatchesTheResult : Prop :=
  ∀ (s : State) (raw : Sample), s.ctlstat &&& 0xC0#8 = 0xC0#8 →
    let hi : Byte := if s.muxctl &&& 0x20#8 = 0#8 then (raw >>> 8).setWidth 8 else (raw >>> 2).setWidth 8
    let lo : Byte := if s.muxctl &&& 0x20#8 = 0#8 then raw.setWidth 8 else raw.setWidth 8 <<< 6
    let c : Byte := (s.ctlstat &&& 0xAF#8) ||| 0x10#8
    exec (.convDone raw) s =
      .next { s with
        dataHi := hi, dataLo := lo, ctlstat := c,
        history := s.history ++ [.convDone raw, .regWr .dataHi s.dataHi hi, .regWr .dataLo s.dataLo lo,
          .regWr .ctlstat s.ctlstat c] }

/-- R169, R200: NOTIFY captures both halves, sets SIG, clears DONE. -/
def Obligations.NotifyCapturesAndSignals : Prop :=
  ∀ s : State, s.ctlstat &&& 0x18#8 = 0x18#8 →
    let c : Byte := s.ctlstat &&& 0xEF#8
    exec .notify s =
      .next { s with
        captHi := s.dataHi, captLo := s.dataLo, sig := true, ctlstat := c,
        history := s.history ++ [.regWr .ctlstat s.ctlstat c, .notify] }

/-- R181, R182: RET assembles the sample from the source the mode names, returns it and is idle again. -/
def Obligations.RetReturnsTheAssembledSample : Prop :=
  ∀ s : State, s.seq = S_READY →
    let hi := if s.cfg.mode = .polled then s.dataHi else s.captHi
    let lo := if s.cfg.mode = .polled then s.dataLo else s.captLo
    let v : Sample := if s.cfg.just = .right then BitVec.ofNat 10 (256 * (hi.toNat % 4) + lo.toNat)
      else BitVec.ofNat 10 hi.toNat
    exec .ret s =
      .next { s with rsp := some v, seq := S_IDLE, history := s.history ++ [.ret v] }

/-- R132: the net effect of INIT. That the word given to exec is first put on the port, in place of any word
there (log 4), and that ACCEPT frees the port (`cmdPort := none`, log 6) are the model's choices. -/
def Obligations.InitHasItsNetEffect : Prop :=
  ∀ s : State, s.cfg.trig = .disabled → s.seq = S_IDLE → s.en = false →
    let m : Byte := (s.muxctl &&& 0x1F#8) ||| ((refCode s.cfg.ref).setWidth 8 <<< 6) |||
      ((justCode s.cfg.just).setWidth 8 <<< 5)
    let c : Byte := (s.ctlstat &&& 0x70#8) ||| 0x80#8 ||| ((ienCode s.cfg.mode).setWidth 8 <<< 3) |||
      (prescCode s.cfg.presc).setWidth 8
    exec .init s =
      .next { s with
        ir := 0x00#8, muxctl := m, ctlstat := c, cmdPort := none,
        history := s.history ++
          [.cmd 0x00#8, .regWr .muxctl s.muxctl m, .regWr .ctlstat s.ctlstat c, .initDone] }

/-- R135, polled: the net effect of READ, for the raw value the CONV agent answers with (the first listed
answer, else a free value). The premise on JUST holds in every reachable state (R45 (2)). The word put on the
port in place of any word there (log 4) and the freed port (`cmdPort := none`, log 6) are the model's choices. -/
def Obligations.PolledReadHasItsNetEffect : Prop :=
  ∀ (s : State) (ch : BitVec 5), s.cfg.trig = .disabled → s.cfg.mode = .polled → s.seq = S_IDLE →
    s.en = true → s.start = false → s.justBit = justCode s.cfg.just → ch.toNat ≤ 7 →
    let raw : Sample := s.nextRaw
    let w : Byte := 0x20#8 ||| ch.setWidth 8
    let m : Byte := (s.muxctl &&& 0xE0#8) ||| ch.setWidth 8
    let c1 : Byte := (s.ctlstat &&& 0xAF#8) ||| 0x40#8
    let c2 : Byte := (s.ctlstat &&& 0xAF#8) ||| 0x10#8
    let d : Byte × Byte := latch s.justBit raw
    let v : Sample := sampleOf s.cfg.just raw
    let events : List Event :=
      [.cmd w, .regWr .muxctl s.muxctl m, .regWr .ctlstat s.ctlstat c1, .convStart ch s.refs,
       .convDone raw, .regWr .dataHi s.dataHi d.1, .regWr .dataLo s.dataLo d.2,
       .regWr .ctlstat c1 c2, .ret v]
    exec (.read ch) s =
      .next { s.afterRaw with
        ir := w, muxctl := m, ctlstat := c2, dataHi := d.1, dataLo := d.2, sig := false, cmdPort := none,
        rsp := some v, history := s.history ++ events }

/-- R135, interrupt mode: the net effect of READ. The premises on JUST and IEN hold in every reachable
state (R45 (2)). The word put on the port in place of any word there (log 4) and the freed port
(`cmdPort := none`, log 6) are the model's choices. -/
def Obligations.InterruptReadHasItsNetEffect : Prop :=
  ∀ (s : State) (ch : BitVec 5), s.cfg.trig = .disabled → s.cfg.mode = .interrupt → s.seq = S_IDLE →
    s.en = true → s.start = false → s.ien = true → s.justBit = justCode s.cfg.just → ch.toNat ≤ 7 →
    let raw : Sample := s.nextRaw
    let w : Byte := 0x20#8 ||| ch.setWidth 8
    let m : Byte := (s.muxctl &&& 0xE0#8) ||| ch.setWidth 8
    let c0 : Byte := s.ctlstat &&& 0xAF#8
    let c1 : Byte := c0 ||| 0x40#8
    let c2 : Byte := c0 ||| 0x10#8
    let d : Byte × Byte := latch s.justBit raw
    let v : Sample := sampleOf s.cfg.just raw
    let events : List Event :=
      [.cmd w, .regWr .muxctl s.muxctl m, .regWr .ctlstat s.ctlstat c1, .convStart ch s.refs,
       .convDone raw, .regWr .dataHi s.dataHi d.1, .regWr .dataLo s.dataLo d.2,
       .regWr .ctlstat c1 c2, .regWr .ctlstat c2 c0, .notify, .ret v]
    exec (.read ch) s =
      .next { s.afterRaw with
        ir := w, muxctl := m, ctlstat := c0, dataHi := d.1, dataLo := d.2, captHi := d.1, captLo := d.2,
        sig := false, cmdPort := none, rsp := some v, history := s.history ++ events }

/-- The commands outside their preconditions (R136, R137, R8): refused in S_IDLE. That a whole command
given to a busy block only puts its word on the port is the model's choice (log 4). -/
def Obligations.CommandsOutsideTheirPreconditions : Prop :=
  ∀ (s : State) (ch : BitVec 5),
    (s.seq = S_IDLE → s.cfg.trig ≠ .disabled →
      exec .init s = .refused .autoTriggerUnimplemented ∧
      exec (.read ch) s = .refused .autoTriggerUnimplemented) ∧
    (s.seq = S_IDLE → s.cfg.trig = .disabled →
      (s.en = true → exec .init s = .refused .reInitialize) ∧
      (7 < ch.toNat → exec (.read ch) s = .refused .reservedCommand) ∧
      (ch.toNat ≤ 7 → s.en = false → exec (.read ch) s = .refused .readBeforeInitialize)) ∧
    (s.seq ≠ S_IDLE →
      exec .init s = .next { s with cmdPort := some 0x00#8 } ∧
      exec (.read ch) s = .next { s with cmdPort := some (0x20#8 ||| ch.setWidth 8) })

/-- The model's reading of `hold` (R16; log 5): a micro-operation or event that is not enabled changes
nothing at all, and a late `conv_done` is ignored (R222). -/
def Obligations.StepsNotEnabledChangeNothing : Prop :=
  ∀ (s : State) (w : Byte) (raw : Sample),
    (¬ (s.seq = S_IDLE ∧ s.cmdPort = some w) → exec (.accept w) s = .next s) ∧
    (s.seq ≠ S_SELECT → exec .selch s = .next s) ∧
    (s.seq ≠ S_TRIGGER → exec .trig s = .next s) ∧
    (¬ (s.seq = S_WAIT ∧ s.cfg.mode = .polled) → exec .waitp s = .next s) ∧
    (¬ (s.seq = S_WAIT ∧ s.cfg.mode = .interrupt ∧ s.sig = true) → exec .waiti s = .next s) ∧
    (s.seq ≠ S_READY → exec .ret s = .next s) ∧
    (s.seq ≠ S_INIT_MUX → exec .initmux s = .next s) ∧
    (s.seq ≠ S_INIT_CTL → exec .initctl s = .next s) ∧
    (s.ctlstat &&& 0xC0#8 ≠ 0xC0#8 → exec (.convDone raw) s = .next s) ∧
    (s.ctlstat &&& 0x18#8 ≠ 0x18#8 → exec .notify s = .next s)

/-- R69: a step that the access table gives no write of a register leaves that register as it was, read
through the addresses of the register space. -/
def Obligations.StepsWriteOnlyTheirRegisters : Prop :=
  ∀ (regAddr : Reg → Nat) (s t : State) (i : Instr), addrMapOk regAddr = true → exec i s = .next t →
    (i ∈ [.selch, .initmux] → ∀ a, a ≠ regAddr .muxctl → memRead regAddr a t = memRead regAddr a s) ∧
    (i ∈ [.initctl, .trig, .notify] →
      ∀ a, a ≠ regAddr .ctlstat → memRead regAddr a t = memRead regAddr a s) ∧
    ((∃ w, i = .accept w) ∨ i ∈ [.waitp, .waiti, .ret] →
      ∀ a, memRead regAddr a t = memRead regAddr a s) ∧
    ((∃ raw, i = .convDone raw) → memRead regAddr (regAddr .muxctl) t = memRead regAddr (regAddr .muxctl) s) ∧
    (i = .init → memRead regAddr (regAddr .dataLo) t = memRead regAddr (regAddr .dataLo) s ∧
      memRead regAddr (regAddr .dataHi) t = memRead regAddr (regAddr .dataHi) s)

/-! ## The result justifier -/

/-- R183: the round trip of Latch and Assemble, and the two mixed cases. -/
def Obligations.LatchAndAssembleRoundTrip : Prop :=
  ∀ r : Sample,
    assemble .right (latch 0#1 r).1 (latch 0#1 r).2 = r ∧
    assemble .left (latch 1#1 r).1 (latch 1#1 r).2 = r >>> 2 ∧
    (assemble .left (latch 1#1 r).1 (latch 1#1 r).2).toNat = r.toNat / 4 ∧
    assemble .right (latch 1#1 r).1 (latch 1#1 r).2 =
      (r.extractLsb' 2 2 ++ (r.extractLsb' 0 2 ++ 0b000000#6) : BitVec 10) ∧
    assemble .left (latch 0#1 r).1 (latch 0#1 r).2 = (r.extractLsb' 8 2).setWidth 10

/-- R181, R184: the ranges of Assemble; the masked bits and the unused half do not matter. -/
def Obligations.AssembleRangesAndMasks : Prop :=
  (∀ hi lo : Byte, (assemble .right hi lo).toNat = 256 * (hi.toNat % 4) + lo.toNat) ∧
  (∀ r : Sample, ∃ hi lo, assemble .right hi lo = r) ∧
  (∀ hi lo : Byte, (assemble .left hi lo).toNat = hi.toNat)

/-! ## The step -/

/-- A step runs what its agent's form decodes to, in the state with the turn taken and no response yet. The
turns are the model's choice (logs 2 and 4), and so is its reading that an agent with nothing to decode, or
whose form is rejected, leaves the state (log 5). -/
def Obligations.StepRunsTheDecodedInstruction : Prop :=
  ∀ s : State, reservedValue s = none → let b := s.beginStep
    (s.nextTurn = .seq →
      (∀ c i, fetchSeq b = some c → decode c = .instr i → step s = exec i b) ∧
      (fetchSeq b = none → step s = .next b)) ∧
    (s.nextTurn = .conv →
      (∀ i, decode (.conv b.ctlstat b.nextRaw) = .instr i → step s = exec i b.afterRaw) ∧
      (∀ why, decode (.conv b.ctlstat b.nextRaw) = .rejected why → step s = .next b)) ∧
    (s.nextTurn = .notify →
      (∀ i, decode (.notify b.ctlstat) = .instr i → step s = exec i b) ∧
      (∀ why, decode (.notify b.ctlstat) = .rejected why → step s = .next b)) ∧
    (s.nextTurn = .command →
      (∀ w i, (hostPresents b).cmdPort = some w → decode (.cmd w) = .instr i →
        step s = exec i (hostPresents b)) ∧
      (∀ w why, (hostPresents b).cmdPort = some w → decode (.cmd w) = .rejected why →
        step s = exec (.accept w) (hostPresents b)) ∧
      ((hostPresents b).cmdPort = none → step s = .next b)) ∧
    (s.nextTurn = .host → step s = .next (hostPresents b)) ∧
    (s.nextTurn = .rst → step s = .next (resetInRun b))

/-- A word of the opcode table placed for the next step is the instruction the very next step runs. -/
def Obligations.PlacedTableWordRunsNext : Prop :=
  ∀ (s : State) (nbits w : Nat) (i : Instr), decodeTableWord nbits w = some i →
    reservedValue (s.withFetchWord nbits w) = none →
    let b := (s.withFetchWord nbits w).beginStep
    step (s.withFetchWord nbits w) =
      exec i (match i with | .convDone _ => b.afterRaw | _ => b)

/-- R95, R143: a state with a reserved value is refused. That it is refused whoever's turn it is, a reset
turn included, is the model's reading (log 8, DEDUCED). -/
def Obligations.ReservedStatesAreRefused : Prop :=
  ∀ s : State,
    (∃ why, step s = .refused why ∧ why ∈ [Refusal.reservedSequencerState, .reservedReference,
      .reservedChannel, .reservedAutoTriggerBit]) ↔
    s.seq = 7#3 ∨ s.muxctl &&& 0xC0#8 = 0x80#8 ∨ s.muxctl &&& 0x18#8 ≠ 0#8 ∨ s.ctlstat &&& 0x20#8 ≠ 0#8

/-- R40, R77, R139: a HOST step presents the next word of its list on a free port, leaves a waiting word
alone, and changes nothing else of the block. -/
def Obligations.HostOnlyPresentsWords : Prop :=
  ∀ s t : State, s.nextTurn = .host → step s = .next t →
    ((∃ w rest, s.cmdPort = none ∧ s.cmds = w :: rest ∧
        t = { s.beginStep with cmdPort := some w, cmds := rest }) ∨
     ((s.cmdPort ≠ none ∨ s.cmds = []) ∧ t = s.beginStep))

/-- R220, R222: reset during a run gives the block its reset state, keeps the history and leaves everything
else alone; after it a conversion's late answer is ignored. -/
def Obligations.ResetInARunRestoresTheResetState : Prop :=
  ∀ s : State, reservedValue s = none → s.nextTurn = .rst →
    ∃ t, step s = .next t ∧
      t = { State.resetOf s.cfg with
        history := s.history, cmdPort := s.cmdPort, cmds := s.cmds, turns := s.beginStep.turns,
        answers := s.answers, drawn := s.beginStep.drawn } ∧
      (t.nextTurn = .conv → step t = .next t.beginStep) ∧
      (t.nextTurn = .notify → step t = .next t.beginStep)

/-- R142: the transition table of SEQ, row by row, for a turn of the SEQ agent; and no transition for the
turns of the other agents of R13. That a turn whose agent holds or is not enabled answers a next state is the
model's reading (log 5, DEDUCED), for the two rows marked hold and for CONV and NOTIFY; that a HOST turn always
answers one is the model's choice (log 6). -/
def Obligations.SequencerFollowsTheTransitionTable : Prop :=
  ∀ s : State, reservedValue s = none →
    let goesTo := fun q : BitVec 3 => ∃ t, step s = .next t ∧ t.seq = q
    (s.nextTurn = .seq →
      (s.seq = S_IDLE → s.cmdPort = none → goesTo S_IDLE) ∧
      (s.seq = S_IDLE → ∀ w, s.cmdPort = some w →
        let isInit := w = 0x00#8 ∧ s.en = false
        let isRead := 0x20 ≤ w.toNat ∧ w.toNat ≤ 0x27 ∧ s.en = true
        (s.cfg.trig = .disabled → isInit → goesTo S_INIT_MUX) ∧
        (s.cfg.trig = .disabled → isRead → goesTo S_SELECT) ∧
        (s.cfg.trig ≠ .disabled ∨ (¬ isInit ∧ ¬ isRead) → ∃ why, step s = .refused why)) ∧
      (s.seq = S_INIT_MUX → goesTo S_INIT_CTL) ∧
      (s.seq = S_INIT_CTL → goesTo S_IDLE) ∧
      (s.seq = S_SELECT → goesTo S_TRIGGER) ∧
      (s.seq = S_TRIGGER → goesTo S_WAIT) ∧
      (s.seq = S_WAIT → s.cfg.mode = .polled → s.start = true → goesTo S_WAIT) ∧
      (s.seq = S_WAIT → s.cfg.mode = .polled → s.start = false → goesTo S_READY) ∧
      (s.seq = S_WAIT → s.cfg.mode = .interrupt → s.sig = false → goesTo S_WAIT) ∧
      (s.seq = S_WAIT → s.cfg.mode = .interrupt → s.sig = true → goesTo S_READY) ∧
      (s.seq = S_READY → goesTo S_IDLE)) ∧
    (s.nextTurn = .conv ∨ s.nextTurn = .notify ∨ s.nextTurn = .host → goesTo s.seq)

/-- R29, R26, R21: the steps of CONV, NOTIFY and HOST write neither SEQ nor IR nor MUXCTL, and return no
sample. -/
def Obligations.EventsNeverMoveTheSequencer : Prop :=
  ∀ s t : State, s.nextTurn = .conv ∨ s.nextTurn = .notify ∨ s.nextTurn = .host → step s = .next t →
    t.seq = s.seq ∧ t.ir = s.ir ∧ t.muxctl = s.muxctl ∧ t.rsp = none

/-! ## Whole-machine rules -/

/-- R117: no step changes the configuration. -/
def Obligations.EveryStepKeepsTheConfiguration : Prop :=
  ∀ s t : State, step s = .next t → t.cfg = s.cfg

/-- R38, R220: every step keeps the history and only appends to it. -/
def Obligations.EveryStepOnlyAppendsToTheHistory : Prop :=
  ∀ s t : State, step s = .next t → ∃ events, t.history = s.history ++ events

/-- R34, R46: only reset returns EN to 0; and ATEN is written by nothing but reset (R35). -/
def Obligations.OnlyResetDisablesThePeripheral : Prop :=
  ∀ s t : State, step s = .next t → s.nextTurn ≠ .rst →
    (s.en = true → t.en = true) ∧ t.aten = s.aten

/-- R32, R174: in the states a run reaches, START is raised by TRIG alone, and lowered by CONV_DONE or reset
alone. -/
def Obligations.StartIsRaisedByTrigAndLoweredByConvDone : Prop :=
  ∀ s t : State, Inv s → step s = .next t →
    (s.start = false → t.start = true → s.nextTurn = .seq ∧ s.seq = S_TRIGGER) ∧
    (s.start = true → t.start = false → (s.nextTurn = .conv ∧ s.en = true) ∨ s.nextTurn = .rst)

/-- R152, R21: no step of a READ changes REFS or JUST: once the peripheral is enabled and INIT's writes are
past, only reset changes them. -/
def Obligations.ReadsKeepReferenceAndJustification : Prop :=
  ∀ s t : State, step s = .next t → s.en = true → s.seq ≠ S_INIT_MUX → s.nextTurn ≠ .rst →
    t.muxctl &&& 0xE0#8 = s.muxctl &&& 0xE0#8

/-- R198, R207: in the states a run reaches, in interrupt mode CONV_DONE raises irq and NOTIFY lowers it, no
other step raises it, no other step but reset lowers it, and it is 1 only in S_WAIT; in polled mode it is
never 1. -/
def Obligations.IrqRisesWithCompletionAndFallsWithNotify : Prop :=
  ∀ s t : State, Inv s → step s = .next t →
    (s.cfg.mode = .interrupt → s.nextTurn = .conv → s.inFlight = true → t.irq = true) ∧
    (s.irq = true → s.nextTurn = .notify → t.irq = false) ∧
    (s.irq = false → t.irq = true → s.nextTurn = .conv ∧ s.inFlight = true) ∧
    (s.irq = true → t.irq = false → s.nextTurn = .notify ∨ s.nextTurn = .rst) ∧
    (s.irq = true → s.seq = S_WAIT) ∧
    (s.cfg.mode = .polled → s.irq = false)

/-! ## Invariants and headline results -/

/-- The state after reset meets the invariant of R45, for every configuration. -/
def Obligations.ResetMeetsTheInvariant : Prop :=
  ∀ cfg : Cfg, Inv (State.resetOf cfg) ∧ Fresh (State.resetOf cfg)

/-- R45: every step, of any agent, keeps the invariant. -/
def Obligations.EveryStepKeepsTheInvariant : Prop :=
  ∀ s t : State, Inv s → step s = .next t → Inv t

/-- R172, R232, R186: every step keeps the result fresh: the data registers and the capture slot hold the
answer to the conversion started last, from its completion to RET. -/
def Obligations.EveryStepKeepsTheResultFresh : Prop :=
  ∀ s t : State, Inv s → Fresh s → step s = .next t → Fresh t

/-- R172, R188: the sample RET returns is that of the conversion started last, whatever came before. -/
def Obligations.RetReturnsTheConversionJustStarted : Prop :=
  ∀ s : State, Inv s → Fresh s → s.seq = S_READY →
    ∃ raw, lastAnswer s.history = some raw ∧ ∃ t, exec .ret s = .next t ∧
      t.rsp = some (sampleOf s.cfg.just raw) ∧
      t.history = s.history ++ [.ret (sampleOf s.cfg.just raw)]

/-- R140, R45: with a host that keeps its duties no step is refused, and the host still keeps them after it
(until a reset, after which INIT is due again). That a host with no word left keeps them is the model's choice
(log 21). -/
def Obligations.DutifulHostIsNeverRefused : Prop :=
  ∀ s : State, Inv s → HostKeepsDuties s → s.nextTurn ≠ .rst →
    ∃ t, step s = .next t ∧ HostKeepsDuties t

/-- R141: no reachable state is stuck: some agent has an enabled step, or the run is over. That CONV has one
whenever a conversion is in flight, a silent converter included, is the model's choice (log 20). -/
def Obligations.NoReachableStateIsStuck : Prop :=
  ∀ s : State, Inv s → s.isStuck = false

/-- R171: polling DONE instead of START leaves S_WAIT at exactly the same steps. -/
def Obligations.PollingDoneEqualsPollingStart : Prop :=
  ∀ s : State, Inv s → exec .waitp s = waitpOnDone s

/-- R164, R165: while the converter does not answer, a polled READ polls for ever: any number of SEQ steps
leaves every part of the block as it was. -/
def Obligations.UnansweredPolledReadHangs : Prop :=
  ∀ (n : Nat) (s : State) (rest : List Turn), reservedValue s = none → s.seq = S_WAIT →
    s.cfg.mode = .polled → s.start = true → s.rsp = none → s.turns = List.replicate n Turn.seq ++ rest →
    Host.Core.run Sys2Proof.core n s = .next { s with turns := rest }

/-- R165, R163: in interrupt mode with nothing signalled or complete, SEQ and NOTIFY turns change nothing:
only the converter can lift the hold. That a holding turn is a step that changes nothing is the model's reading
(log 5, DEDUCED). -/
def Obligations.UnansweredInterruptReadHolds : Prop :=
  ∀ (ts : List Turn) (s : State) (rest : List Turn), reservedValue s = none → s.seq = S_WAIT →
    s.cfg.mode = .interrupt → s.sig = false → s.done = false → s.rsp = none →
    (∀ t ∈ ts, t = .seq ∨ t = .notify) → s.turns = ts ++ rest →
    Host.Core.run Sys2Proof.core ts.length s = .next { s with turns := rest }

/-- R135, R172: a polled READ by single steps, with any number of polls before the converter's answer and the
one after it, ends in the state the whole command ends in. -/
def Obligations.PolledReadBySmallStepsIsTheCommand : Prop :=
  ∀ (polls : Nat) (s t : State) (ch : BitVec 5) (rest : List Turn), Inv s → s.seq = S_IDLE →
    s.cfg.mode = .polled → s.cmdPort = some (readWord ch) → ch.toNat ≤ 7 → s.rsp = none →
    exec (.read ch) s = .next t →
    s.turns = polledReadTurns polls ++ rest →
    Host.Core.run Sys2Proof.core (polls + 6) s = .next { t with turns := rest }

/-- R135, R172: an interrupt-driven READ by single steps, with any hold of SEQ before the answer and before
the notifier, ends in the state the whole command ends in. That a holding turn is a step that changes nothing
is the model's reading (log 5, DEDUCED). -/
def Obligations.InterruptReadBySmallStepsIsTheCommand : Prop :=
  ∀ (j k : Nat) (s t : State) (ch : BitVec 5) (rest : List Turn), Inv s → s.seq = S_IDLE →
    s.cfg.mode = .interrupt → s.cmdPort = some (readWord ch) → ch.toNat ≤ 7 → s.rsp = none →
    exec (.read ch) s = .next t →
    s.turns = interruptReadTurns j k ++ rest →
    Host.Core.run Sys2Proof.core (j + k + 7) s = .next { t with turns := rest }

/-- R132, R230: INIT by single steps finishes in exactly three SEQ steps, in the state the whole command
ends in. -/
def Obligations.InitFinishesInThreeSteps : Prop :=
  ∀ (s t : State) (rest : List Turn), Inv s → s.seq = S_IDLE → s.cmdPort = some 0x00#8 → s.rsp = none →
    exec .init s = .next t → s.turns = List.replicate 3 Turn.seq ++ rest →
    Host.Core.run Sys2Proof.core 3 s = .next { t with turns := rest }

/-- R168, R230: in an infinite run without reset, under any schedule, if the converter responds and the SEQ and
NOTIFY agents are weakly fair, every READ that has been accepted returns a sample. -/
def Obligations.EveryReadReturnsWhenTheConverterResponds : Prop :=
  ∀ (sched : Nat → Turn) (r : Nat → State), Inv (r 0) → IsRun sched r → NoReset sched →
    ConverterResponds sched r → WeaklyFair .seq sched r → WeaklyFair .notify sched r →
    ∀ n, (r n).seq = S_SELECT → ∃ m, n < m ∧ (r m).seq = S_IDLE ∧ (r m).rspValid = true

/-- R40 to R43: the ports are plain copies of the register fields. -/
def Obligations.PortsCopyTheirFields : Prop :=
  ∀ s : State,
    (s.cmdReady = true ↔ s.seq = S_IDLE) ∧
    (s.adcEnable = true ↔ s.ctlstat &&& 0x80#8 ≠ 0#8) ∧
    (s.convRequest = true ↔ s.ctlstat &&& 0x40#8 ≠ 0#8) ∧
    (s.irq = true ↔ s.ctlstat &&& 0x18#8 = 0x18#8) ∧
    s.muxSel = s.muxctl.setWidth 5 ∧ s.refSel = (s.muxctl >>> 6).setWidth 2 ∧
    s.clkDivSel = s.ctlstat.setWidth 3

/-- R41: the response is valid after a step exactly when that step returned a sample, and carries it. -/
def Obligations.ResponseIsValidForItsStepOnly : Prop :=
  ∀ s t : State, step s = .next t →
    (∀ v, t.rsp = some v → ∃ events, t.history = s.history ++ events ++ [.ret v]) ∧
    (s.nextTurn = .seq → s.seq = S_READY → t.rsp = some s.sample) ∧
    (s.nextTurn = .seq → s.seq ≠ S_READY → t.rsp = none)

/-- R98: the spellings of the two commands name the command words, and a channel outside 0..7 spells a
reserved word or none. The exact punctuation is the model's choice (log 18). -/
def Obligations.CommandTextSpellsTheCommandWords : Prop :=
  commandWord ['I', 'N', 'I', 'T'] = some 0x00#8 ∧
  commandWord ['I', 'n', 'i', 't', 'i', 'a', 'l', 'i', 'z', 'e', '(', ')'] = some 0x00#8 ∧
  commandWord ['i', 'n', 'i', 't'] = some 0x00#8 ∧
  (∀ d : Fin 8, let digit := Char.ofNat (48 + d.val)
    let w : Byte := 0x20#8 + BitVec.ofNat 8 d.val
    commandWord ['R', 'E', 'A', 'D', ' ', digit] = some w ∧
    commandWord ['R', 'e', 'a', 'd', 'C', 'h', 'a', 'n', 'n', 'e', 'l', '(', digit, ')'] = some w ∧
    commandWord ['r', 'e', 'a', 'd', '(', digit, ')'] = some w) ∧
  (commandWord ['R', 'E', 'A', 'D', ' ', '8'] = some 0x28#8) ∧
  commandWord ['R', 'E', 'A', 'D', ' ', '3', '2'] = none

/-- R141, R165: with a converter that stays silent (log 20), the states a run reaches in which nothing can move
and the run is not over are exactly the interrupt-mode holds: in S_WAIT with the conversion in flight, and
no word for the host to present. -/
def Obligations.SilentConverterLeavesExactlyTheInterruptHold : Prop :=
  ∀ s : State, Inv s → (s.isStuckIfSilent = true ↔
    s.seq = S_WAIT ∧ s.cfg.mode = .interrupt ∧ s.start = true ∧ s.hostEnabled = false)
end

