-- ==== Sys2Proof/Laws/Fields.lean ====
section
/-! SUPPORT. Fields of registers, bit by bit: what a field read gives (R61) and what a field put leaves
(R63), and the status bits as bits of CTLSTAT. -/

namespace Sys2Proof.Machine

theorem fieldMask_getElem (f : Field) (i : Nat) (hi : i < 8) :
    (fieldMask f)[i] = decide (fieldLo f ≤ i ∧ i < fieldLo f + fieldWidth f) := by
  revert i; cases f <;> decide

theorem fieldOnes_getElem (f : Field) (i : Nat) (hi : i < 8) :
    (fieldOnes f)[i] = decide (i < fieldWidth f) := by
  revert i; cases f <;> decide

/-- A field lies inside its byte. -/
theorem field_fits (f : Field) : fieldLo f + fieldWidth f ≤ 8 := by cases f <;> decide

/-- Two fields of one register do not overlap (R20). -/
theorem fields_apart (f g : Field) (hr : fieldReg f = fieldReg g) (hne : f ≠ g) :
    fieldLo f + fieldWidth f ≤ fieldLo g ∨ fieldLo g + fieldWidth g ≤ fieldLo f := by
  cases f <;> cases g <;> simp_all [fieldReg, fieldLo, fieldWidth]

/-- The bits of a field read (R61). -/
theorem fieldGet_getElem (f : Field) (b : Byte) (i : Nat) (hi : i < 8) :
    (fieldGet f b)[i] = (decide (i < fieldWidth f) && b.getLsbD (fieldLo f + i)) := by
  simp [fieldGet, fieldOnes_getElem, Bool.and_comm]

/-- The bits of a field put (R63): the value inside the field, the old bits outside. -/
theorem fieldPut_getElem (f : Field) (v b : Byte) (i : Nat) (hi : i < 8) :
    (fieldPut f v b)[i] =
      if fieldLo f ≤ i ∧ i < fieldLo f + fieldWidth f then v.getLsbD (i - fieldLo f) else b[i] := by
  by_cases hm : fieldLo f ≤ i ∧ i < fieldLo f + fieldWidth f
  · have hlo : ¬ i < fieldLo f := by omega
    have hlt : i - fieldLo f < 8 := by omega
    simp [fieldPut, fieldMask_getElem, hm, hlo, BitVec.getLsbD_eq_getElem hlt]
  · simp [fieldPut, fieldMask_getElem, hm]

/-- A field reads as it was put, if the value fits. -/
theorem fieldGet_fieldPut (f : Field) (v b : Byte) (h : v.toNat < 2 ^ fieldWidth f) :
    fieldGet f (fieldPut f v b) = v := by
  ext i hi
  have fits := field_fits f
  rw [fieldGet_getElem]
  by_cases hw : i < fieldWidth f
  · rw [BitVec.getLsbD_eq_getElem (by omega), fieldPut_getElem]
    simp [hw, BitVec.getLsbD_eq_getElem hi]
  · have hv : v.toNat.testBit i = false :=
      Nat.testBit_lt_two_pow (lt_of_lt_of_le h (Nat.pow_le_pow_right (by decide) (Nat.le_of_not_lt hw)))
    simp [hw, ← BitVec.getLsbD_eq_getElem hi, BitVec.getLsbD, hv]

/-- The other fields of the register read as before. -/
theorem fieldGet_fieldPut_other (f g : Field) (v b : Byte) (hr : fieldReg f = fieldReg g) (hne : f ≠ g) :
    fieldGet g (fieldPut f v b) = fieldGet g b := by
  ext i hi
  have fits := field_fits g
  have apart := fields_apart f g hr hne
  rw [fieldGet_getElem, fieldGet_getElem]
  by_cases hw : i < fieldWidth g
  · have hin : ¬ (fieldLo f ≤ fieldLo g + i ∧ fieldLo g + i < fieldLo f + fieldWidth f) := by omega
    have hlt : fieldLo g + i < 8 := by omega
    rw [BitVec.getLsbD_eq_getElem hlt, BitVec.getLsbD_eq_getElem hlt, fieldPut_getElem]
    simp [hin]
  · simp [hw]

/-! The status bits are bits of CTLSTAT (R85). -/

theorem fieldBit_en (b : Byte) : fieldBit .en b = b.getLsbD 7 := by revert b; decide
theorem fieldBit_start (b : Byte) : fieldBit .start b = b.getLsbD 6 := by revert b; decide
theorem fieldBit_aten (b : Byte) : fieldBit .aten b = b.getLsbD 5 := by revert b; decide
theorem fieldBit_done (b : Byte) : fieldBit .done b = b.getLsbD 4 := by revert b; decide
theorem fieldBit_ien (b : Byte) : fieldBit .ien b = b.getLsbD 3 := by revert b; decide

/-- The guard of CONV_DONE (R97) is EN and START. -/
theorem convGuard (b : Byte) : (b &&& 0xC0#8 = 0xC0#8) = (fieldBit .en b && fieldBit .start b) := by
  revert b; decide

/-- The guard of NOTIFY (R97) is DONE and IEN. -/
theorem notifyGuard (b : Byte) : (b &&& 0x18#8 = 0x18#8) = (fieldBit .done b && fieldBit .ien b) := by
  revert b; decide

end Sys2Proof.Machine
end

