-- ==== Sys2Proof/Laws/Decode.lean ====
section
/-! SUPPORT. The decoder code by code: what each SEQ value selects (R91, R92), what the two event guards
select (R97), and the eight values SEQ can hold. -/

namespace Sys2Proof.Machine

@[simp] theorem decodeSeq_idle (m : Mode) (w : Byte) : decodeSeq S_IDLE m w = .instr (.accept w) := rfl
@[simp] theorem decodeSeq_select (m : Mode) (w : Byte) : decodeSeq S_SELECT m w = .instr .selch := rfl
@[simp] theorem decodeSeq_trigger (m : Mode) (w : Byte) : decodeSeq S_TRIGGER m w = .instr .trig := rfl
@[simp] theorem decodeSeq_wait_polled (w : Byte) : decodeSeq S_WAIT .polled w = .instr .waitp := rfl
@[simp] theorem decodeSeq_wait_interrupt (w : Byte) : decodeSeq S_WAIT .interrupt w = .instr .waiti := rfl
@[simp] theorem decodeSeq_ready (m : Mode) (w : Byte) : decodeSeq S_READY m w = .instr .ret := rfl
@[simp] theorem decodeSeq_init_mux (m : Mode) (w : Byte) : decodeSeq S_INIT_MUX m w = .instr .initmux := rfl
@[simp] theorem decodeSeq_init_ctl (m : Mode) (w : Byte) : decodeSeq S_INIT_CTL m w = .instr .initctl := rfl
@[simp] theorem decodeSeq_reserved (m : Mode) (w : Byte) :
    decodeSeq 7#3 m w = .rejected .reservedSeqCode := rfl

/-- The eight values of SEQ (R29, R91). -/
theorem seq_values (q : BitVec 3) :
    q = S_IDLE ∨ q = S_SELECT ∨ q = S_TRIGGER ∨ q = S_WAIT ∨ q = S_READY ∨ q = S_INIT_MUX ∨
      q = S_INIT_CTL ∨ q = 7#3 := by
  revert q; decide

/-- The three answers of the command decoder: INIT, a READ of one of eight channels, a reserved word. -/
theorem decodeCommand_cases (w : Byte) :
    decodeCommand w = .instr .init ∨
    (∃ c, decodeCommand w = .instr (.read c) ∧ c.toNat ≤ 7 ∧ w = readWord c) ∨
    (∃ why, decodeCommand w = .rejected why) := by
  unfold decodeCommand
  by_cases h0 : w = 0x00#8
  · simp [h0]
  by_cases h1 : cmdOp w = 0b001#3 ∧ (cmdArg w).toNat ≤ 7
  · refine .inr (.inl ⟨cmdArg w, ?_, h1.2, ?_⟩)
    · simp [h0, h1]
    · revert h0 h1; revert w; decide
  · refine .inr (.inr ?_)
    simp only [h0, h1, if_false]
    by_cases h2 : cmdOp w = 0b000#3
    · exact ⟨.initWithArgument, by simp [h2]⟩
    by_cases h3 : cmdOp w = 0b001#3
    · exact ⟨.channelOutOfRange, by simp [h3]⟩
    · exact ⟨.undefinedOperation, by simp [h2, h3]⟩

/-- Outside S_IDLE the SEQ agent runs what SEQ selects. -/
theorem seqTurn_busy {s : State} (h : s.seq ≠ S_IDLE) :
    seqTurn s = runCode (.seq s.seq s.cfg.mode 0#8) s s := by
  simp [seqTurn, fetchSeq, h]

theorem seqTurn_idle {s : State} (h : s.seq = S_IDLE) (hp : s.cmdPort = none) : seqTurn s = .next s := by
  simp [seqTurn, fetchSeq, h, hp]

theorem seqTurn_accept {s : State} {w : Byte} (h : s.seq = S_IDLE) (hp : s.cmdPort = some w) :
    seqTurn s = execAccept w s := by
  simp [seqTurn, fetchSeq, h, hp, runCode, decode, exec]

theorem seqTurn_select {s : State} (h : s.seq = S_SELECT) : seqTurn s = execSelch s := by
  rw [seqTurn_busy (by rw [h]; decide), runCode, h]; rfl

theorem seqTurn_trigger {s : State} (h : s.seq = S_TRIGGER) : seqTurn s = execTrig s := by
  rw [seqTurn_busy (by rw [h]; decide), runCode, h]; rfl

theorem seqTurn_wait_polled {s : State} (h : s.seq = S_WAIT) (hm : s.cfg.mode = .polled) :
    seqTurn s = execWaitp s := by
  rw [seqTurn_busy (by rw [h]; decide), runCode, h, hm]; rfl

theorem seqTurn_wait_interrupt {s : State} (h : s.seq = S_WAIT) (hm : s.cfg.mode = .interrupt) :
    seqTurn s = execWaiti s := by
  rw [seqTurn_busy (by rw [h]; decide), runCode, h, hm]; rfl

theorem seqTurn_ready {s : State} (h : s.seq = S_READY) : seqTurn s = execRet s := by
  rw [seqTurn_busy (by rw [h]; decide), runCode, h]; rfl

theorem seqTurn_init_mux {s : State} (h : s.seq = S_INIT_MUX) : seqTurn s = execInitmux s := by
  rw [seqTurn_busy (by rw [h]; decide), runCode, h]; rfl

theorem seqTurn_init_ctl {s : State} (h : s.seq = S_INIT_CTL) : seqTurn s = execInitctl s := by
  rw [seqTurn_busy (by rw [h]; decide), runCode, h]; rfl

theorem seqTurn_reserved {s : State} (h : s.seq = 7#3) : seqTurn s = .next s := by
  rw [seqTurn_busy (by rw [h]; decide), runCode, h]; rfl

/-- The guard of CONV_DONE decides what the CONV agent's form decodes to (R97). -/
theorem decodeConv_eq (c : Byte) (raw : Sample) :
    decodeConv c raw =
      if fieldBit .en c && fieldBit .start c then .instr (.convDone raw)
      else .rejected .convDoneNotEnabled := by
  simp only [decodeConv, convGuard]

/-- The guard of NOTIFY decides what the NOTIFY agent's form decodes to (R97). -/
theorem decodeNotify_eq (c : Byte) :
    decodeNotify c =
      if fieldBit .done c && fieldBit .ien c then .instr .notify else .rejected .notifyNotEnabled := by
  simp only [decodeNotify, notifyGuard]

/-- The CONV agent's turn when CONV_DONE is enabled. -/
theorem convTurn_enabled {s : State} (h : s.inFlight = true) :
    convTurn s = execConvDone s.nextRaw s.afterRaw := by
  have hd : decodeConv s.ctlstat s.nextRaw = .instr (.convDone s.nextRaw) := by
    rw [decodeConv_eq]; exact if_pos h
  simp [convTurn, runCode, decode, hd, exec]

/-- The CONV agent's turn when CONV_DONE is not enabled: it is ignored, and no raw value is taken. -/
theorem convTurn_disabled {s : State} (h : s.inFlight = false) : convTurn s = .next s := by
  have hd : decodeConv s.ctlstat s.nextRaw = .rejected .convDoneNotEnabled := by
    rw [decodeConv_eq]; exact if_neg (by simpa [State.inFlight, State.en, State.start] using h)
  simp [convTurn, runCode, decode, hd]

/-- The NOTIFY agent's turn is NOTIFY, which is nothing when it is not enabled. -/
theorem notifyTurn_eq (s : State) : notifyTurn s = execNotify s := by
  cases h : s.irqPending with
  | true =>
    have hd : decodeNotify s.ctlstat = .instr .notify := by rw [decodeNotify_eq]; exact if_pos h
    simp [notifyTurn, runCode, decode, hd, exec]
  | false =>
    have hd : decodeNotify s.ctlstat = .rejected .notifyNotEnabled := by
      rw [decodeNotify_eq]; exact if_neg (by simpa [State.irqPending, State.done, State.ien] using h)
    simp [notifyTurn, runCode, decode, hd, execNotify, h]

end Sys2Proof.Machine
end

