-- ==== Sys2Proof/Laws/State.lean ====
section
/-! SUPPORT. One lemma per field per update of State, and the fields through the register, turn and draw
operations, so that no later proof unfolds a record update. -/

namespace Sys2Proof.Machine

variable (s : State)

/-! setSeq -/

@[simp] theorem State.setSeq_cfg (c : BitVec 3) : (s.setSeq c).cfg = s.cfg := rfl
@[simp] theorem State.setSeq_muxctl (c : BitVec 3) : (s.setSeq c).muxctl = s.muxctl := rfl
@[simp] theorem State.setSeq_ctlstat (c : BitVec 3) : (s.setSeq c).ctlstat = s.ctlstat := rfl
@[simp] theorem State.setSeq_dataLo (c : BitVec 3) : (s.setSeq c).dataLo = s.dataLo := rfl
@[simp] theorem State.setSeq_dataHi (c : BitVec 3) : (s.setSeq c).dataHi = s.dataHi := rfl
@[simp] theorem State.setSeq_seq (c : BitVec 3) : (s.setSeq c).seq = c := rfl
@[simp] theorem State.setSeq_ir (c : BitVec 3) : (s.setSeq c).ir = s.ir := rfl
@[simp] theorem State.setSeq_sig (c : BitVec 3) : (s.setSeq c).sig = s.sig := rfl
@[simp] theorem State.setSeq_captLo (c : BitVec 3) : (s.setSeq c).captLo = s.captLo := rfl
@[simp] theorem State.setSeq_captHi (c : BitVec 3) : (s.setSeq c).captHi = s.captHi := rfl
@[simp] theorem State.setSeq_history (c : BitVec 3) : (s.setSeq c).history = s.history := rfl
@[simp] theorem State.setSeq_cmdPort (c : BitVec 3) : (s.setSeq c).cmdPort = s.cmdPort := rfl
@[simp] theorem State.setSeq_rsp (c : BitVec 3) : (s.setSeq c).rsp = s.rsp := rfl
@[simp] theorem State.setSeq_cmds (c : BitVec 3) : (s.setSeq c).cmds = s.cmds := rfl
@[simp] theorem State.setSeq_turns (c : BitVec 3) : (s.setSeq c).turns = s.turns := rfl
@[simp] theorem State.setSeq_answers (c : BitVec 3) : (s.setSeq c).answers = s.answers := rfl
@[simp] theorem State.setSeq_drawn (c : BitVec 3) : (s.setSeq c).drawn = s.drawn := rfl

/-! setIr -/

@[simp] theorem State.setIr_cfg (w : Byte) : (s.setIr w).cfg = s.cfg := rfl
@[simp] theorem State.setIr_muxctl (w : Byte) : (s.setIr w).muxctl = s.muxctl := rfl
@[simp] theorem State.setIr_ctlstat (w : Byte) : (s.setIr w).ctlstat = s.ctlstat := rfl
@[simp] theorem State.setIr_dataLo (w : Byte) : (s.setIr w).dataLo = s.dataLo := rfl
@[simp] theorem State.setIr_dataHi (w : Byte) : (s.setIr w).dataHi = s.dataHi := rfl
@[simp] theorem State.setIr_seq (w : Byte) : (s.setIr w).seq = s.seq := rfl
@[simp] theorem State.setIr_ir (w : Byte) : (s.setIr w).ir = w := rfl
@[simp] theorem State.setIr_sig (w : Byte) : (s.setIr w).sig = s.sig := rfl
@[simp] theorem State.setIr_captLo (w : Byte) : (s.setIr w).captLo = s.captLo := rfl
@[simp] theorem State.setIr_captHi (w : Byte) : (s.setIr w).captHi = s.captHi := rfl
@[simp] theorem State.setIr_history (w : Byte) : (s.setIr w).history = s.history := rfl
@[simp] theorem State.setIr_cmdPort (w : Byte) : (s.setIr w).cmdPort = s.cmdPort := rfl
@[simp] theorem State.setIr_rsp (w : Byte) : (s.setIr w).rsp = s.rsp := rfl
@[simp] theorem State.setIr_cmds (w : Byte) : (s.setIr w).cmds = s.cmds := rfl
@[simp] theorem State.setIr_turns (w : Byte) : (s.setIr w).turns = s.turns := rfl
@[simp] theorem State.setIr_answers (w : Byte) : (s.setIr w).answers = s.answers := rfl
@[simp] theorem State.setIr_drawn (w : Byte) : (s.setIr w).drawn = s.drawn := rfl

/-! setSig -/

@[simp] theorem State.setSig_cfg (b : Bool) : (s.setSig b).cfg = s.cfg := rfl
@[simp] theorem State.setSig_muxctl (b : Bool) : (s.setSig b).muxctl = s.muxctl := rfl
@[simp] theorem State.setSig_ctlstat (b : Bool) : (s.setSig b).ctlstat = s.ctlstat := rfl
@[simp] theorem State.setSig_dataLo (b : Bool) : (s.setSig b).dataLo = s.dataLo := rfl
@[simp] theorem State.setSig_dataHi (b : Bool) : (s.setSig b).dataHi = s.dataHi := rfl
@[simp] theorem State.setSig_seq (b : Bool) : (s.setSig b).seq = s.seq := rfl
@[simp] theorem State.setSig_ir (b : Bool) : (s.setSig b).ir = s.ir := rfl
@[simp] theorem State.setSig_sig (b : Bool) : (s.setSig b).sig = b := rfl
@[simp] theorem State.setSig_captLo (b : Bool) : (s.setSig b).captLo = s.captLo := rfl
@[simp] theorem State.setSig_captHi (b : Bool) : (s.setSig b).captHi = s.captHi := rfl
@[simp] theorem State.setSig_history (b : Bool) : (s.setSig b).history = s.history := rfl
@[simp] theorem State.setSig_cmdPort (b : Bool) : (s.setSig b).cmdPort = s.cmdPort := rfl
@[simp] theorem State.setSig_rsp (b : Bool) : (s.setSig b).rsp = s.rsp := rfl
@[simp] theorem State.setSig_cmds (b : Bool) : (s.setSig b).cmds = s.cmds := rfl
@[simp] theorem State.setSig_turns (b : Bool) : (s.setSig b).turns = s.turns := rfl
@[simp] theorem State.setSig_answers (b : Bool) : (s.setSig b).answers = s.answers := rfl
@[simp] theorem State.setSig_drawn (b : Bool) : (s.setSig b).drawn = s.drawn := rfl

/-! setPort -/

@[simp] theorem State.setPort_cfg (p : Option Byte) : (s.setPort p).cfg = s.cfg := rfl
@[simp] theorem State.setPort_muxctl (p : Option Byte) : (s.setPort p).muxctl = s.muxctl := rfl
@[simp] theorem State.setPort_ctlstat (p : Option Byte) : (s.setPort p).ctlstat = s.ctlstat := rfl
@[simp] theorem State.setPort_dataLo (p : Option Byte) : (s.setPort p).dataLo = s.dataLo := rfl
@[simp] theorem State.setPort_dataHi (p : Option Byte) : (s.setPort p).dataHi = s.dataHi := rfl
@[simp] theorem State.setPort_seq (p : Option Byte) : (s.setPort p).seq = s.seq := rfl
@[simp] theorem State.setPort_ir (p : Option Byte) : (s.setPort p).ir = s.ir := rfl
@[simp] theorem State.setPort_sig (p : Option Byte) : (s.setPort p).sig = s.sig := rfl
@[simp] theorem State.setPort_captLo (p : Option Byte) : (s.setPort p).captLo = s.captLo := rfl
@[simp] theorem State.setPort_captHi (p : Option Byte) : (s.setPort p).captHi = s.captHi := rfl
@[simp] theorem State.setPort_history (p : Option Byte) : (s.setPort p).history = s.history := rfl
@[simp] theorem State.setPort_cmdPort (p : Option Byte) : (s.setPort p).cmdPort = p := rfl
@[simp] theorem State.setPort_rsp (p : Option Byte) : (s.setPort p).rsp = s.rsp := rfl
@[simp] theorem State.setPort_cmds (p : Option Byte) : (s.setPort p).cmds = s.cmds := rfl
@[simp] theorem State.setPort_turns (p : Option Byte) : (s.setPort p).turns = s.turns := rfl
@[simp] theorem State.setPort_answers (p : Option Byte) : (s.setPort p).answers = s.answers := rfl
@[simp] theorem State.setPort_drawn (p : Option Byte) : (s.setPort p).drawn = s.drawn := rfl

/-! setRsp -/

@[simp] theorem State.setRsp_cfg (r : Option Sample) : (s.setRsp r).cfg = s.cfg := rfl
@[simp] theorem State.setRsp_muxctl (r : Option Sample) : (s.setRsp r).muxctl = s.muxctl := rfl
@[simp] theorem State.setRsp_ctlstat (r : Option Sample) : (s.setRsp r).ctlstat = s.ctlstat := rfl
@[simp] theorem State.setRsp_dataLo (r : Option Sample) : (s.setRsp r).dataLo = s.dataLo := rfl
@[simp] theorem State.setRsp_dataHi (r : Option Sample) : (s.setRsp r).dataHi = s.dataHi := rfl
@[simp] theorem State.setRsp_seq (r : Option Sample) : (s.setRsp r).seq = s.seq := rfl
@[simp] theorem State.setRsp_ir (r : Option Sample) : (s.setRsp r).ir = s.ir := rfl
@[simp] theorem State.setRsp_sig (r : Option Sample) : (s.setRsp r).sig = s.sig := rfl
@[simp] theorem State.setRsp_captLo (r : Option Sample) : (s.setRsp r).captLo = s.captLo := rfl
@[simp] theorem State.setRsp_captHi (r : Option Sample) : (s.setRsp r).captHi = s.captHi := rfl
@[simp] theorem State.setRsp_history (r : Option Sample) : (s.setRsp r).history = s.history := rfl
@[simp] theorem State.setRsp_cmdPort (r : Option Sample) : (s.setRsp r).cmdPort = s.cmdPort := rfl
@[simp] theorem State.setRsp_rsp (r : Option Sample) : (s.setRsp r).rsp = r := rfl
@[simp] theorem State.setRsp_cmds (r : Option Sample) : (s.setRsp r).cmds = s.cmds := rfl
@[simp] theorem State.setRsp_turns (r : Option Sample) : (s.setRsp r).turns = s.turns := rfl
@[simp] theorem State.setRsp_answers (r : Option Sample) : (s.setRsp r).answers = s.answers := rfl
@[simp] theorem State.setRsp_drawn (r : Option Sample) : (s.setRsp r).drawn = s.drawn := rfl

/-! setCmds -/

@[simp] theorem State.setCmds_cfg (ws : List Byte) : (s.setCmds ws).cfg = s.cfg := rfl
@[simp] theorem State.setCmds_muxctl (ws : List Byte) : (s.setCmds ws).muxctl = s.muxctl := rfl
@[simp] theorem State.setCmds_ctlstat (ws : List Byte) : (s.setCmds ws).ctlstat = s.ctlstat := rfl
@[simp] theorem State.setCmds_dataLo (ws : List Byte) : (s.setCmds ws).dataLo = s.dataLo := rfl
@[simp] theorem State.setCmds_dataHi (ws : List Byte) : (s.setCmds ws).dataHi = s.dataHi := rfl
@[simp] theorem State.setCmds_seq (ws : List Byte) : (s.setCmds ws).seq = s.seq := rfl
@[simp] theorem State.setCmds_ir (ws : List Byte) : (s.setCmds ws).ir = s.ir := rfl
@[simp] theorem State.setCmds_sig (ws : List Byte) : (s.setCmds ws).sig = s.sig := rfl
@[simp] theorem State.setCmds_captLo (ws : List Byte) : (s.setCmds ws).captLo = s.captLo := rfl
@[simp] theorem State.setCmds_captHi (ws : List Byte) : (s.setCmds ws).captHi = s.captHi := rfl
@[simp] theorem State.setCmds_history (ws : List Byte) : (s.setCmds ws).history = s.history := rfl
@[simp] theorem State.setCmds_cmdPort (ws : List Byte) : (s.setCmds ws).cmdPort = s.cmdPort := rfl
@[simp] theorem State.setCmds_rsp (ws : List Byte) : (s.setCmds ws).rsp = s.rsp := rfl
@[simp] theorem State.setCmds_cmds (ws : List Byte) : (s.setCmds ws).cmds = ws := rfl
@[simp] theorem State.setCmds_turns (ws : List Byte) : (s.setCmds ws).turns = s.turns := rfl
@[simp] theorem State.setCmds_answers (ws : List Byte) : (s.setCmds ws).answers = s.answers := rfl
@[simp] theorem State.setCmds_drawn (ws : List Byte) : (s.setCmds ws).drawn = s.drawn := rfl

/-! setCapt -/

@[simp] theorem State.setCapt_cfg (hi lo : Byte) : (s.setCapt hi lo).cfg = s.cfg := rfl
@[simp] theorem State.setCapt_muxctl (hi lo : Byte) : (s.setCapt hi lo).muxctl = s.muxctl := rfl
@[simp] theorem State.setCapt_ctlstat (hi lo : Byte) : (s.setCapt hi lo).ctlstat = s.ctlstat := rfl
@[simp] theorem State.setCapt_dataLo (hi lo : Byte) : (s.setCapt hi lo).dataLo = s.dataLo := rfl
@[simp] theorem State.setCapt_dataHi (hi lo : Byte) : (s.setCapt hi lo).dataHi = s.dataHi := rfl
@[simp] theorem State.setCapt_seq (hi lo : Byte) : (s.setCapt hi lo).seq = s.seq := rfl
@[simp] theorem State.setCapt_ir (hi lo : Byte) : (s.setCapt hi lo).ir = s.ir := rfl
@[simp] theorem State.setCapt_sig (hi lo : Byte) : (s.setCapt hi lo).sig = s.sig := rfl
@[simp] theorem State.setCapt_captLo (hi lo : Byte) : (s.setCapt hi lo).captLo = lo := rfl
@[simp] theorem State.setCapt_captHi (hi lo : Byte) : (s.setCapt hi lo).captHi = hi := rfl
@[simp] theorem State.setCapt_history (hi lo : Byte) : (s.setCapt hi lo).history = s.history := rfl
@[simp] theorem State.setCapt_cmdPort (hi lo : Byte) : (s.setCapt hi lo).cmdPort = s.cmdPort := rfl
@[simp] theorem State.setCapt_rsp (hi lo : Byte) : (s.setCapt hi lo).rsp = s.rsp := rfl
@[simp] theorem State.setCapt_cmds (hi lo : Byte) : (s.setCapt hi lo).cmds = s.cmds := rfl
@[simp] theorem State.setCapt_turns (hi lo : Byte) : (s.setCapt hi lo).turns = s.turns := rfl
@[simp] theorem State.setCapt_answers (hi lo : Byte) : (s.setCapt hi lo).answers = s.answers := rfl
@[simp] theorem State.setCapt_drawn (hi lo : Byte) : (s.setCapt hi lo).drawn = s.drawn := rfl

/-! emit -/

@[simp] theorem State.emit_cfg (e : Event) : (s.emit e).cfg = s.cfg := rfl
@[simp] theorem State.emit_muxctl (e : Event) : (s.emit e).muxctl = s.muxctl := rfl
@[simp] theorem State.emit_ctlstat (e : Event) : (s.emit e).ctlstat = s.ctlstat := rfl
@[simp] theorem State.emit_dataLo (e : Event) : (s.emit e).dataLo = s.dataLo := rfl
@[simp] theorem State.emit_dataHi (e : Event) : (s.emit e).dataHi = s.dataHi := rfl
@[simp] theorem State.emit_seq (e : Event) : (s.emit e).seq = s.seq := rfl
@[simp] theorem State.emit_ir (e : Event) : (s.emit e).ir = s.ir := rfl
@[simp] theorem State.emit_sig (e : Event) : (s.emit e).sig = s.sig := rfl
@[simp] theorem State.emit_captLo (e : Event) : (s.emit e).captLo = s.captLo := rfl
@[simp] theorem State.emit_captHi (e : Event) : (s.emit e).captHi = s.captHi := rfl
@[simp] theorem State.emit_history (e : Event) : (s.emit e).history = s.history ++ [e] := rfl
@[simp] theorem State.emit_cmdPort (e : Event) : (s.emit e).cmdPort = s.cmdPort := rfl
@[simp] theorem State.emit_rsp (e : Event) : (s.emit e).rsp = s.rsp := rfl
@[simp] theorem State.emit_cmds (e : Event) : (s.emit e).cmds = s.cmds := rfl
@[simp] theorem State.emit_turns (e : Event) : (s.emit e).turns = s.turns := rfl
@[simp] theorem State.emit_answers (e : Event) : (s.emit e).answers = s.answers := rfl
@[simp] theorem State.emit_drawn (e : Event) : (s.emit e).drawn = s.drawn := rfl

/-! setReg -/

@[simp] theorem State.setReg_muxctl_muxctl (v : Byte) : (s.setReg .muxctl v).muxctl = v := rfl
@[simp] theorem State.setReg_muxctl_ctlstat (v : Byte) : (s.setReg .muxctl v).ctlstat = s.ctlstat := rfl
@[simp] theorem State.setReg_muxctl_dataLo (v : Byte) : (s.setReg .muxctl v).dataLo = s.dataLo := rfl
@[simp] theorem State.setReg_muxctl_dataHi (v : Byte) : (s.setReg .muxctl v).dataHi = s.dataHi := rfl
@[simp] theorem State.setReg_ctlstat_muxctl (v : Byte) : (s.setReg .ctlstat v).muxctl = s.muxctl := rfl
@[simp] theorem State.setReg_ctlstat_ctlstat (v : Byte) : (s.setReg .ctlstat v).ctlstat = v := rfl
@[simp] theorem State.setReg_ctlstat_dataLo (v : Byte) : (s.setReg .ctlstat v).dataLo = s.dataLo := rfl
@[simp] theorem State.setReg_ctlstat_dataHi (v : Byte) : (s.setReg .ctlstat v).dataHi = s.dataHi := rfl
@[simp] theorem State.setReg_dataLo_muxctl (v : Byte) : (s.setReg .dataLo v).muxctl = s.muxctl := rfl
@[simp] theorem State.setReg_dataLo_ctlstat (v : Byte) : (s.setReg .dataLo v).ctlstat = s.ctlstat := rfl
@[simp] theorem State.setReg_dataLo_dataLo (v : Byte) : (s.setReg .dataLo v).dataLo = v := rfl
@[simp] theorem State.setReg_dataLo_dataHi (v : Byte) : (s.setReg .dataLo v).dataHi = s.dataHi := rfl
@[simp] theorem State.setReg_dataHi_muxctl (v : Byte) : (s.setReg .dataHi v).muxctl = s.muxctl := rfl
@[simp] theorem State.setReg_dataHi_ctlstat (v : Byte) : (s.setReg .dataHi v).ctlstat = s.ctlstat := rfl
@[simp] theorem State.setReg_dataHi_dataLo (v : Byte) : (s.setReg .dataHi v).dataLo = s.dataLo := rfl
@[simp] theorem State.setReg_dataHi_dataHi (v : Byte) : (s.setReg .dataHi v).dataHi = v := rfl
@[simp] theorem State.setReg_cfg (r : Reg) (v : Byte) : (s.setReg r v).cfg = s.cfg := by cases r <;> rfl
@[simp] theorem State.setReg_seq (r : Reg) (v : Byte) : (s.setReg r v).seq = s.seq := by cases r <;> rfl
@[simp] theorem State.setReg_ir (r : Reg) (v : Byte) : (s.setReg r v).ir = s.ir := by cases r <;> rfl
@[simp] theorem State.setReg_sig (r : Reg) (v : Byte) : (s.setReg r v).sig = s.sig := by cases r <;> rfl
@[simp] theorem State.setReg_captLo (r : Reg) (v : Byte) : (s.setReg r v).captLo = s.captLo := by cases r <;> rfl
@[simp] theorem State.setReg_captHi (r : Reg) (v : Byte) : (s.setReg r v).captHi = s.captHi := by cases r <;> rfl
@[simp] theorem State.setReg_history (r : Reg) (v : Byte) : (s.setReg r v).history = s.history := by cases r <;> rfl
@[simp] theorem State.setReg_cmdPort (r : Reg) (v : Byte) : (s.setReg r v).cmdPort = s.cmdPort := by cases r <;> rfl
@[simp] theorem State.setReg_rsp (r : Reg) (v : Byte) : (s.setReg r v).rsp = s.rsp := by cases r <;> rfl
@[simp] theorem State.setReg_cmds (r : Reg) (v : Byte) : (s.setReg r v).cmds = s.cmds := by cases r <;> rfl
@[simp] theorem State.setReg_turns (r : Reg) (v : Byte) : (s.setReg r v).turns = s.turns := by cases r <;> rfl
@[simp] theorem State.setReg_answers (r : Reg) (v : Byte) : (s.setReg r v).answers = s.answers := by cases r <;> rfl
@[simp] theorem State.setReg_drawn (r : Reg) (v : Byte) : (s.setReg r v).drawn = s.drawn := by cases r <;> rfl

/-! afterTurn and afterRaw: only the model's own lists and counter move. -/

@[simp] theorem State.afterTurn_cfg : s.afterTurn.cfg = s.cfg := by unfold State.afterTurn; split <;> rfl
@[simp] theorem State.afterTurn_muxctl : s.afterTurn.muxctl = s.muxctl := by unfold State.afterTurn; split <;> rfl
@[simp] theorem State.afterTurn_ctlstat : s.afterTurn.ctlstat = s.ctlstat := by unfold State.afterTurn; split <;> rfl
@[simp] theorem State.afterTurn_dataLo : s.afterTurn.dataLo = s.dataLo := by unfold State.afterTurn; split <;> rfl
@[simp] theorem State.afterTurn_dataHi : s.afterTurn.dataHi = s.dataHi := by unfold State.afterTurn; split <;> rfl
@[simp] theorem State.afterTurn_seq : s.afterTurn.seq = s.seq := by unfold State.afterTurn; split <;> rfl
@[simp] theorem State.afterTurn_ir : s.afterTurn.ir = s.ir := by unfold State.afterTurn; split <;> rfl
@[simp] theorem State.afterTurn_sig : s.afterTurn.sig = s.sig := by unfold State.afterTurn; split <;> rfl
@[simp] theorem State.afterTurn_captLo : s.afterTurn.captLo = s.captLo := by unfold State.afterTurn; split <;> rfl
@[simp] theorem State.afterTurn_captHi : s.afterTurn.captHi = s.captHi := by unfold State.afterTurn; split <;> rfl
@[simp] theorem State.afterTurn_history : s.afterTurn.history = s.history := by unfold State.afterTurn; split <;> rfl
@[simp] theorem State.afterTurn_cmdPort : s.afterTurn.cmdPort = s.cmdPort := by unfold State.afterTurn; split <;> rfl
@[simp] theorem State.afterTurn_rsp : s.afterTurn.rsp = s.rsp := by unfold State.afterTurn; split <;> rfl
@[simp] theorem State.afterTurn_cmds : s.afterTurn.cmds = s.cmds := by unfold State.afterTurn; split <;> rfl
@[simp] theorem State.afterTurn_answers : s.afterTurn.answers = s.answers := by unfold State.afterTurn; split <;> rfl
@[simp] theorem State.afterRaw_cfg : s.afterRaw.cfg = s.cfg := by unfold State.afterRaw; split <;> rfl
@[simp] theorem State.afterRaw_muxctl : s.afterRaw.muxctl = s.muxctl := by unfold State.afterRaw; split <;> rfl
@[simp] theorem State.afterRaw_ctlstat : s.afterRaw.ctlstat = s.ctlstat := by unfold State.afterRaw; split <;> rfl
@[simp] theorem State.afterRaw_dataLo : s.afterRaw.dataLo = s.dataLo := by unfold State.afterRaw; split <;> rfl
@[simp] theorem State.afterRaw_dataHi : s.afterRaw.dataHi = s.dataHi := by unfold State.afterRaw; split <;> rfl
@[simp] theorem State.afterRaw_seq : s.afterRaw.seq = s.seq := by unfold State.afterRaw; split <;> rfl
@[simp] theorem State.afterRaw_ir : s.afterRaw.ir = s.ir := by unfold State.afterRaw; split <;> rfl
@[simp] theorem State.afterRaw_sig : s.afterRaw.sig = s.sig := by unfold State.afterRaw; split <;> rfl
@[simp] theorem State.afterRaw_captLo : s.afterRaw.captLo = s.captLo := by unfold State.afterRaw; split <;> rfl
@[simp] theorem State.afterRaw_captHi : s.afterRaw.captHi = s.captHi := by unfold State.afterRaw; split <;> rfl
@[simp] theorem State.afterRaw_history : s.afterRaw.history = s.history := by unfold State.afterRaw; split <;> rfl
@[simp] theorem State.afterRaw_cmdPort : s.afterRaw.cmdPort = s.cmdPort := by unfold State.afterRaw; split <;> rfl
@[simp] theorem State.afterRaw_rsp : s.afterRaw.rsp = s.rsp := by unfold State.afterRaw; split <;> rfl
@[simp] theorem State.afterRaw_cmds : s.afterRaw.cmds = s.cmds := by unfold State.afterRaw; split <;> rfl
@[simp] theorem State.afterRaw_turns : s.afterRaw.turns = s.turns := by unfold State.afterRaw; split <;> rfl

/-! hostPresents: only the port and the host's list move (R77). -/

@[simp] theorem hostPresents_cfg : (hostPresents s).cfg = s.cfg := by unfold hostPresents; split <;> rfl
@[simp] theorem hostPresents_muxctl : (hostPresents s).muxctl = s.muxctl := by unfold hostPresents; split <;> rfl
@[simp] theorem hostPresents_ctlstat : (hostPresents s).ctlstat = s.ctlstat := by unfold hostPresents; split <;> rfl
@[simp] theorem hostPresents_dataLo : (hostPresents s).dataLo = s.dataLo := by unfold hostPresents; split <;> rfl
@[simp] theorem hostPresents_dataHi : (hostPresents s).dataHi = s.dataHi := by unfold hostPresents; split <;> rfl
@[simp] theorem hostPresents_seq : (hostPresents s).seq = s.seq := by unfold hostPresents; split <;> rfl
@[simp] theorem hostPresents_ir : (hostPresents s).ir = s.ir := by unfold hostPresents; split <;> rfl
@[simp] theorem hostPresents_sig : (hostPresents s).sig = s.sig := by unfold hostPresents; split <;> rfl
@[simp] theorem hostPresents_captLo : (hostPresents s).captLo = s.captLo := by unfold hostPresents; split <;> rfl
@[simp] theorem hostPresents_captHi : (hostPresents s).captHi = s.captHi := by unfold hostPresents; split <;> rfl
@[simp] theorem hostPresents_history : (hostPresents s).history = s.history := by unfold hostPresents; split <;> rfl
@[simp] theorem hostPresents_rsp : (hostPresents s).rsp = s.rsp := by unfold hostPresents; split <;> rfl
@[simp] theorem hostPresents_turns : (hostPresents s).turns = s.turns := by unfold hostPresents; split <;> rfl
@[simp] theorem hostPresents_answers : (hostPresents s).answers = s.answers := by unfold hostPresents; split <;> rfl
@[simp] theorem hostPresents_drawn : (hostPresents s).drawn = s.drawn := by unfold hostPresents; split <;> rfl

/-! The status bits and fields of a state depend on its register alone. -/

@[simp] theorem State.reg_muxctl : s.reg .muxctl = s.muxctl := rfl
@[simp] theorem State.reg_ctlstat : s.reg .ctlstat = s.ctlstat := rfl
@[simp] theorem State.reg_dataLo : s.reg .dataLo = s.dataLo := rfl
@[simp] theorem State.reg_dataHi : s.reg .dataHi = s.dataHi := rfl

/-- A register written reads as written. -/
@[simp] theorem State.reg_setReg_same (r : Reg) (v : Byte) : (s.setReg r v).reg r = v := by cases r <;> rfl

/-- The other registers read as before. -/
theorem State.reg_setReg_other (r q : Reg) (v : Byte) (h : q ≠ r) : (s.setReg r v).reg q = s.reg q := by
  cases r <;> cases q <;> first | rfl | exact absurd rfl h

end Sys2Proof.Machine
end

