-- ==== Sys2Proof/Laws/Ops.lean ====
section
/-! SUPPORT. One law for each shared operation and meaning: everything it can do, for later proofs to cite
instead of unfolding it. -/

namespace Sys2Proof.Machine

/-! Register writes. -/

@[simp] theorem State.writeReg_reg (s : State) (r : Reg) (v : Byte) : (s.writeReg r v).reg r = v := by
  cases r <;> rfl

theorem State.writeReg_reg_other (s : State) (r q : Reg) (v : Byte) (h : q ≠ r) :
    (s.writeReg r v).reg q = s.reg q :=
  State.reg_setReg_other s r q v h

/-- A register write leaves one event, with the old and the new value (R38). -/
@[simp] theorem State.writeReg_history (s : State) (r : Reg) (v : Byte) :
    (s.writeReg r v).history = s.history ++ [.regWr r (s.reg r) v] := by
  cases r <;> rfl

@[simp] theorem putFields_nil (b : Byte) : putFields [] b = b := rfl

@[simp] theorem putFields_cons (f : Field) (v : Byte) (rest : List (Field × Byte)) (b : Byte) :
    putFields ((f, v) :: rest) b = putFields rest (fieldPut f v b) := rfl

/-! andThen. -/

@[simp] theorem andThen_next (s : State) (k : State → Result) : andThen (.next s) k = k s := rfl

@[simp] theorem andThen_refused (why : Refusal) (k : State → Result) :
    andThen (.refused why) k = .refused why := rfl

/-- A sequence answers a next state only when both parts do. -/
theorem andThen_eq_next {r : Result} {k : State → Result} {t : State} (h : andThen r k = .next t) :
    ∃ m, r = .next m ∧ k m = .next t := by
  cases r with
  | next m => exact ⟨m, rfl, h⟩
  | fault f => exact nomatch f
  | refused why => simp [andThen] at h

/-! What each micro-operation and event can do. -/

theorem acceptWord_cases {w : Byte} {s t : State} (h : acceptWord w s = .next t) :
    s.cfg.trig = .disabled ∧
    ((decodeCommand w = .instr .init ∧ s.en = false ∧ t = s.take w S_INIT_MUX) ∨
     (∃ c, decodeCommand w = .instr (.read c) ∧ s.en = true ∧ t = s.take w S_SELECT)) := by
  cases ht : s.cfg.trig <;> simp only [acceptWord, ht, trigResolve] at h <;> try simp at h
  refine ⟨rfl, ?_⟩
  split at h
  · rename_i hd
    cases he : s.en <;> simp [he] at h
    exact .inl ⟨hd, rfl, h.symm⟩
  · rename_i c hd
    cases he : s.en <;> simp [he] at h
    exact .inr ⟨c, hd, rfl, h.symm⟩
  · simp at h
  · simp at h

theorem execAccept_cases {w : Byte} {s t : State} (h : execAccept w s = .next t) :
    (s.seq = S_IDLE ∧ s.cmdPort = some w ∧ acceptWord w s = .next t) ∨
    (¬ (s.seq = S_IDLE ∧ s.cmdPort = some w) ∧ t = s) := by
  unfold execAccept at h
  split at h
  · rename_i hg; exact .inl ⟨hg.1, hg.2, h⟩
  · rename_i hg; exact .inr ⟨hg, by simpa using h.symm⟩

theorem execSelch_cases {s t : State} (h : execSelch s = .next t) :
    (s.seq = S_SELECT ∧ t = (s.writeFields .muxctl [(.chsel, s.irChannel)]).setSeq S_TRIGGER) ∨
    (s.seq ≠ S_SELECT ∧ t = s) := by
  unfold execSelch at h
  split at h
  · rename_i hg; exact .inl ⟨hg, by simpa using h.symm⟩
  · rename_i hg; exact .inr ⟨hg, by simpa using h.symm⟩

theorem execTrig_cases {s t : State} (h : execTrig s = .next t) :
    (s.seq = S_TRIGGER ∧ t = (((s.writeFields .ctlstat [(.start, 1#8), (.done, 0#8)]).setSig false).emit
      (.convStart s.chsel s.refs)).setSeq S_WAIT) ∨
    (s.seq ≠ S_TRIGGER ∧ t = s) := by
  unfold execTrig at h
  split at h
  · rename_i hg; exact .inl ⟨hg, by simpa using h.symm⟩
  · rename_i hg; exact .inr ⟨hg, by simpa using h.symm⟩

theorem execWaitp_cases {s t : State} (h : execWaitp s = .next t) :
    (s.seq = S_WAIT ∧ s.cfg.mode = .polled ∧ s.start = false ∧ t = s.setSeq S_READY) ∨
    (s.seq = S_WAIT ∧ s.cfg.mode = .polled ∧ s.start = true ∧ t = s.setSeq S_WAIT) ∨
    (¬ (s.seq = S_WAIT ∧ s.cfg.mode = .polled) ∧ t = s) := by
  unfold execWaitp at h
  split at h
  · rename_i hg
    split at h
    · rename_i hs; exact .inr (.inl ⟨hg.1, hg.2, hs, by simpa using h.symm⟩)
    · rename_i hs; exact .inl ⟨hg.1, hg.2, by simpa using hs, by simpa using h.symm⟩
  · rename_i hg; exact .inr (.inr ⟨hg, by simpa using h.symm⟩)

theorem execWaiti_cases {s t : State} (h : execWaiti s = .next t) :
    (s.seq = S_WAIT ∧ s.cfg.mode = .interrupt ∧ s.sig = true ∧ t = (s.setSig false).setSeq S_READY) ∨
    (¬ (s.seq = S_WAIT ∧ s.cfg.mode = .interrupt ∧ s.sig = true) ∧ t = s) := by
  unfold execWaiti at h
  split at h
  · rename_i hg; exact .inl ⟨hg.1, hg.2.1, hg.2.2, by simpa using h.symm⟩
  · rename_i hg; exact .inr ⟨hg, by simpa using h.symm⟩

theorem execRet_cases {s t : State} (h : execRet s = .next t) :
    (s.seq = S_READY ∧ t = ((s.setRsp (some s.sample)).emit (.ret s.sample)).setSeq S_IDLE) ∨
    (s.seq ≠ S_READY ∧ t = s) := by
  unfold execRet at h
  split at h
  · rename_i hg; exact .inl ⟨hg, by simpa using h.symm⟩
  · rename_i hg; exact .inr ⟨hg, by simpa using h.symm⟩

theorem execInitmux_cases {s t : State} (h : execInitmux s = .next t) :
    (s.seq = S_INIT_MUX ∧ t = (s.writeFields .muxctl (muxInit s.cfg)).setSeq S_INIT_CTL) ∨
    (s.seq ≠ S_INIT_MUX ∧ t = s) := by
  unfold execInitmux at h
  split at h
  · rename_i hg; exact .inl ⟨hg, by simpa using h.symm⟩
  · rename_i hg; exact .inr ⟨hg, by simpa using h.symm⟩

theorem execInitctl_cases {s t : State} (h : execInitctl s = .next t) :
    (s.seq = S_INIT_CTL ∧
      t = ((s.writeFields .ctlstat (ctlInit s.cfg)).emit .initDone).setSeq S_IDLE) ∨
    (s.seq ≠ S_INIT_CTL ∧ t = s) := by
  unfold execInitctl at h
  split at h
  · rename_i hg; exact .inl ⟨hg, by simpa using h.symm⟩
  · rename_i hg; exact .inr ⟨hg, by simpa using h.symm⟩

theorem execConvDone_cases {raw : Sample} {s t : State} (h : execConvDone raw s = .next t) :
    (s.inFlight = true ∧
      t = (((s.emit (.convDone raw)).writeReg .dataHi (latch s.justBit raw).1).writeReg .dataLo
        (latch s.justBit raw).2).writeFields .ctlstat [(.start, 0#8), (.done, 1#8)]) ∨
    (s.inFlight = false ∧ t = s) := by
  unfold execConvDone at h
  split at h
  · rename_i hg; exact .inl ⟨hg, by simpa using h.symm⟩
  · rename_i hg; exact .inr ⟨by simpa using hg, by simpa using h.symm⟩

theorem execNotify_cases {s t : State} (h : execNotify s = .next t) :
    (s.irqPending = true ∧ t = takeCompletionInterrupt s) ∨ (s.irqPending = false ∧ t = s) := by
  unfold execNotify at h
  split at h
  · rename_i hg; exact .inl ⟨hg, by simpa using h.symm⟩
  · rename_i hg; exact .inr ⟨by simpa using hg, by simpa using h.symm⟩

/-! What a command and a step can do. -/

/-- A command waits at the port of a block that is not idle, and is carried out from S_IDLE. -/
theorem carryOut_cases {w : Byte} {rest : State → Result} {s t : State}
    (h : carryOut w rest s = .next t) :
    (s.seq ≠ S_IDLE ∧ t = s.setPort (some w)) ∨
    (s.seq = S_IDLE ∧ ∃ m, acceptWord w (s.setPort (some w)) = .next m ∧ rest m = .next t) := by
  unfold carryOut at h
  by_cases hi : s.seq = S_IDLE
  · simp only [State.setPort_seq, hi, if_true] at h
    obtain ⟨m, hm, hr⟩ := andThen_eq_next h
    simp only [execAccept, State.setPort_seq, hi, State.setPort_cmdPort, and_self, if_true] at hm
    exact .inr ⟨hi, m, hm, hr⟩
  · simp only [State.setPort_seq, hi, if_false] at h
    exact .inl ⟨hi, by simpa using h.symm⟩

/-- A step runs the next turn, from a state without a reserved value. -/
theorem step_cases {s t : State} (h : step s = .next t) :
    reservedValue s = none ∧ runTurn s.nextTurn s.beginStep = .next t := by
  unfold step stepOnce at h
  split at h
  · simp at h
  · rename_i hr; exact ⟨hr, h⟩

/-- A state has no reserved value exactly when SEQ, REFS, CHSEL and ATEN are legal (R95, R143). -/
theorem reservedValue_none (s : State) :
    reservedValue s = none ↔
      s.seq ≠ 7#3 ∧ s.refs ≠ 0b10#2 ∧ s.chsel.toNat ≤ 7 ∧ s.aten = false := by
  unfold reservedValue
  by_cases h1 : s.seq = 7#3
  · simp [h1]
  by_cases h2 : s.refs = 0b10#2
  · simp [h1, h2]
  by_cases h3 : 7 < s.chsel.toNat
  · simp [h1, h2, h3]
  · have : s.chsel.toNat ≤ 7 := by omega
    cases s.aten <;> simp [h1, h2, h3, this]

/-- What the SEQ agent's turn can do, code by code (R91, R92, R142). -/
theorem seqTurn_cases {s t : State} (h : seqTurn s = .next t) :
    (s.seq = S_IDLE ∧ s.cmdPort = none ∧ t = s) ∨
    (∃ w, s.seq = S_IDLE ∧ s.cmdPort = some w ∧ execAccept w s = .next t) ∨
    (s.seq = S_SELECT ∧ execSelch s = .next t) ∨
    (s.seq = S_TRIGGER ∧ execTrig s = .next t) ∨
    (s.seq = S_WAIT ∧ s.cfg.mode = .polled ∧ execWaitp s = .next t) ∨
    (s.seq = S_WAIT ∧ s.cfg.mode = .interrupt ∧ execWaiti s = .next t) ∨
    (s.seq = S_READY ∧ execRet s = .next t) ∨
    (s.seq = S_INIT_MUX ∧ execInitmux s = .next t) ∨
    (s.seq = S_INIT_CTL ∧ execInitctl s = .next t) ∨
    (s.seq = 7#3 ∧ t = s) := by
  rcases seq_values s.seq with q | q | q | q | q | q | q | q
  · cases hp : s.cmdPort with
    | none => rw [seqTurn_idle q hp] at h; simp at h; exact .inl ⟨q, rfl, h.symm⟩
    | some w => rw [seqTurn_accept q hp] at h; exact .inr (.inl ⟨w, q, rfl, h⟩)
  · rw [seqTurn_select q] at h; exact .inr (.inr (.inl ⟨q, h⟩))
  · rw [seqTurn_trigger q] at h; exact .inr (.inr (.inr (.inl ⟨q, h⟩)))
  · cases hm : s.cfg.mode with
    | polled =>
      rw [seqTurn_wait_polled q hm] at h
      exact .inr (.inr (.inr (.inr (.inl ⟨q, rfl, h⟩))))
    | interrupt =>
      rw [seqTurn_wait_interrupt q hm] at h
      exact .inr (.inr (.inr (.inr (.inr (.inl ⟨q, rfl, h⟩)))))
  · rw [seqTurn_ready q] at h
    exact .inr (.inr (.inr (.inr (.inr (.inr (.inl ⟨q, h⟩))))))
  · rw [seqTurn_init_mux q] at h
    exact .inr (.inr (.inr (.inr (.inr (.inr (.inr (.inl ⟨q, h⟩)))))))
  · rw [seqTurn_init_ctl q] at h
    exact .inr (.inr (.inr (.inr (.inr (.inr (.inr (.inr (.inl ⟨q, h⟩))))))))
  · rw [seqTurn_reserved q] at h
    simp at h
    exact .inr (.inr (.inr (.inr (.inr (.inr (.inr (.inr (.inr ⟨q, h.symm⟩))))))))

/-- The CONV agent's turn is CONV_DONE with the next raw value, or nothing. -/
theorem convTurn_cases {s t : State} (h : convTurn s = .next t) :
    (s.inFlight = true ∧ execConvDone s.nextRaw s.afterRaw = .next t) ∨
    (s.inFlight = false ∧ t = s) := by
  cases hf : s.inFlight with
  | true => rw [convTurn_enabled hf] at h; exact .inl ⟨rfl, h⟩
  | false => rw [convTurn_disabled hf] at h; simp at h; exact .inr ⟨rfl, h.symm⟩

/-- A whole command is INIT or READ, or nothing when no word can be presented. -/
theorem commandTurn_cases {s t : State} (h : commandTurn s = .next t) :
    ((hostPresents s).cmdPort = none ∧ t = hostPresents s) ∨
    (∃ w, (hostPresents s).cmdPort = some w ∧
      ((decodeCommand w = .instr .init ∧ execInit (hostPresents s) = .next t) ∨
       (∃ c, decodeCommand w = .instr (.read c) ∧ execRead c (hostPresents s) = .next t) ∨
       ((∃ why, decodeCommand w = .rejected why) ∧ execAccept w (hostPresents s) = .next t))) := by
  unfold commandTurn at h
  cases hp : (hostPresents s).cmdPort with
  | none => simp [hp] at h; exact .inl ⟨rfl, h.symm⟩
  | some w =>
    simp only [hp, decode] at h
    refine .inr ⟨w, rfl, ?_⟩
    rcases decodeCommand_cases w with hd | ⟨c, hd, -⟩ | ⟨why, hd⟩ <;> simp only [hd, exec] at h
    · exact .inl ⟨hd, h⟩
    · exact .inr (.inl ⟨c, hd, h⟩)
    · exact .inr (.inr ⟨⟨why, hd⟩, h⟩)

end Sys2Proof.Machine
end

