-- ==== Sys2Proof/Laws/PerInstr.lean ====
section
/-! SUPPORT. Laws made per instruction. EncodeMatchesTable: the encoding of a well-formed instruction agrees
with its row of spec/opcode_table.json on every bit of the row's mask. -/

namespace Sys2Proof.Laws.EncodeMatchesTable

/-- The encoded word matches its table row under the row's mask. -/
def Statement (i : Instr) : Prop :=
  i.wellFormed = true → (encode i).bits &&& (tableRow i).mask = (tableRow i).pattern

theorem init : Statement .init := by intro _; decide
theorem read (channel : BitVec 5) : Statement (.read channel) := by
  unfold Statement; revert channel; decide
theorem accept (word : Byte) : Statement (.accept word) := by
  intro _; simp only [encode, tableRow, Code.bits]; decide
theorem selch : Statement .selch := by intro _; decide
theorem trig : Statement .trig := by intro _; decide
theorem waitp : Statement .waitp := by intro _; decide
theorem waiti : Statement .waiti := by intro _; decide
theorem ret : Statement .ret := by intro _; decide
theorem initmux : Statement .initmux := by intro _; decide
theorem initctl : Statement .initctl := by intro _; decide
theorem convDone (raw : Sample) : Statement (.convDone raw) := by
  intro _; simp only [encode, tableRow, Code.bits]; decide
theorem notify : Statement .notify := by intro _; decide

end Sys2Proof.Laws.EncodeMatchesTable
end

