-- ==== Sys2Proof/Tests/Slice0.lean ====
section
/-! SUPPORT. Tests of single steps with results taken from spec/95_test_vectors.md and the tables of
spec/30_encoding.md, the refusals of the well-formedness checks, and a witness for the hypotheses of every
obligation that has some. -/

namespace Sys2Proof.Tests

open Sys2Proof Sys2Proof.Machine

/-! Helpers: two configurations, a state with given registers, and questions about an outcome. -/

/-- The scenario (V6): AVCC, right, polled, 128. -/
def polledCfg : Cfg := Config.scenario

/-- AVCC, right, interrupt-driven, 128. -/
def irqCfg : Cfg := { Config.scenario with mode := .interrupt }

/-- INT_2V56, left, polled, 8 (program P2 of 95_test_vectors.md). -/
def leftCfg : Cfg := ⟨.int2v56, .left, .disabled, .polled, .div8⟩

/-- A configuration the block refuses (R8). -/
def freeRunningCfg : Cfg := { Config.scenario with trig := .freeRunning }

/-- The reset state with a configuration, MUXCTL, CTLSTAT and SEQ as given. -/
def at_ (cfg : Cfg) (mux ctl : Byte) (seq : BitVec 3) : State :=
  { State.resetOf cfg with muxctl := mux, ctlstat := ctl, seq := seq }

/-- The next state, or the given one if there is none. -/
def after (r : Result) (s : State) : State :=
  match r with
  | .next t => t
  | .fault _ => s
  | .refused _ => s

/-- The outcome is a next state with a property. -/
def nextWith (r : Result) (p : State → Bool) : Bool :=
  match r with
  | .next t => p t
  | .fault _ => false
  | .refused _ => false

/-- The outcome is a given refusal. -/
def refusedAs (r : Result) (why : Refusal) : Bool :=
  match r with
  | .next _ => false
  | .fault _ => false
  | .refused w => w = why

/-- The answer of an operation that answers a next state (for the witnesses: `r = .next (after r s)`). -/
theorem after_next (t s : State) : after (.next t) s = t := rfl

/-! Well-formedness: each check refuses an ill-formed term. -/

theorem test_wf_read_channel_8 : (Instr.read 8#5).wellFormed = false := by decide
theorem test_wf_read_channel_7 : (Instr.read 7#5).wellFormed = true := by decide
theorem test_wf_cfg_free_running : freeRunningCfg.admitted = false := by decide
theorem test_wf_address_map : addrMapOk (fun _ => 0) = false := by decide
theorem test_wf_raw_reference : elaborate ⟨0b10, 0, .disabled, 0, 128⟩ = none := by decide
theorem test_wf_raw_justification : elaborate ⟨0b01, 2, .disabled, 0, 128⟩ = none := by decide
theorem test_wf_raw_mode : elaborate ⟨0b01, 0, .disabled, 2, 128⟩ = none := by decide
theorem test_wf_raw_divisor : elaborate ⟨0b01, 0, .disabled, 0, 1⟩ = none := by decide
theorem test_wf_raw_scenario : elaborate ⟨0b01, 0, .disabled, 0, 128⟩ = some polledCfg := by decide

/-! Decoding, bit by bit (R82, R83, R91, R94, R97; V9). -/

theorem test_decode_init : decode (.cmd 0b00000000#8) = .instr .init := by decide
theorem test_decode_read : decode (.cmd 0b00100101#8) = .instr (.read 5#5) := by decide
theorem test_decode_read_out_of_range : decode (.cmd 0b00101000#8) = .rejected .channelOutOfRange := by decide
theorem test_decode_init_argument : decode (.cmd 0b00000001#8) = .rejected .initWithArgument := by decide
theorem test_decode_undefined : decode (.cmd 0b01000000#8) = .rejected .undefinedOperation := by decide
theorem test_decode_accept : decode (.seq 0b000#3 .polled 0x23#8) = .instr (.accept 0x23#8) := by decide
theorem test_decode_selch : decode (.seq 0b001#3 .interrupt 0#8) = .instr .selch := by decide
theorem test_decode_trig : decode (.seq 0b010#3 .polled 0#8) = .instr .trig := by decide
theorem test_decode_waitp : decode (.seq 0b011#3 .polled 0#8) = .instr .waitp := by decide
theorem test_decode_waiti : decode (.seq 0b011#3 .interrupt 0#8) = .instr .waiti := by decide
theorem test_decode_ret : decode (.seq 0b100#3 .polled 0#8) = .instr .ret := by decide
theorem test_decode_initmux : decode (.seq 0b101#3 .polled 0#8) = .instr .initmux := by decide
theorem test_decode_initctl : decode (.seq 0b110#3 .polled 0#8) = .instr .initctl := by decide
theorem test_decode_seq_7 : decode (.seq 0b111#3 .polled 0#8) = .rejected .reservedSeqCode := by decide
theorem test_decode_conv_done : decode (.conv 0b11000111#8 0x2A5#10) = .instr (.convDone 0x2A5#10) := by decide
theorem test_decode_conv_done_en_0 : decode (.conv 0x40#8 0#10) = .rejected .convDoneNotEnabled := by decide
theorem test_decode_notify : decode (.notify 0b10011111#8) = .instr .notify := by decide
theorem test_decode_notify_done_0 : decode (.notify 0xCF#8) = .rejected .notifyNotEnabled := by decide

/-- The rows of the opcode table, by the words the table gives them. -/
theorem test_table_words :
    decodeTableWord 8 0x00 = some .init ∧ decodeTableWord 8 0x20 = some (.read 0#5) ∧
    decodeTableWord 3 0x0 = some (.accept 0#8) ∧ decodeTableWord 8 0x1 = some .selch ∧
    decodeTableWord 8 0x2 = some .trig ∧ decodeTableWord 8 0x3 = some .waitp ∧
    decodeTableWord 8 0x4 = some .ret ∧ decodeTableWord 8 0x5 = some .initmux ∧
    decodeTableWord 8 0x6 = some .initctl ∧ decodeTableWord 8 0xC0 = some (.convDone 0#10) ∧
    decodeTableWord 8 0x18 = some .notify ∧ decodeTableWord 8 0x28 = none := by decide

/-! One step of each instruction (95_test_vectors.md). -/

/-- V11. -/
theorem test_initmux_replaces : nextWith (exec .initmux (at_ polledCfg 0xE5 0 S_INIT_MUX))
    (fun t => t.muxctl = 0x45 ∧ t.seq = S_INIT_CTL ∧ t.history = [.regWr .muxctl 0xE5 0x45]) := by decide

/-- V12. -/
theorem test_initctl_mask :
    nextWith (exec .initctl (at_ ⟨.avcc, .right, .disabled, .polled, .div2⟩ 0 0x1F S_INIT_CTL))
      (fun t => t.ctlstat = 0x91 ∧ t.seq = S_IDLE) := by decide
theorem test_initctl_interrupt :
    nextWith (exec .initctl (at_ ⟨.avcc, .right, .disabled, .interrupt, .div64⟩ 0 0 S_INIT_CTL))
      (fun t => t.ctlstat = 0x8E ∧ t.history = [.regWr .ctlstat 0 0x8E, .initDone]) := by decide

/-- V13. -/
theorem test_init_writes_v13 :
    initWrites ⟨.int2v56, .left, .disabled, .interrupt, .div8⟩ (0x43, 0x97) = (0xE3, 0x9B) := by decide

/-- V22: a word outside the command set, and the order of the tests of R131. -/
theorem test_accept_reserved :
    refusedAs (exec (.accept 0x28) { at_ polledCfg 0x40 0x87 S_IDLE with cmdPort := some 0x28 })
      .reservedCommand := by decide
theorem test_accept_auto_trigger_first :
    refusedAs (exec (.accept 0x28) { at_ freeRunningCfg 0 0 S_IDLE with cmdPort := some 0x28 })
      .autoTriggerUnimplemented := by decide

/-- V14, V15. -/
theorem test_selch_replaces : nextWith (exec .selch { at_ polledCfg 0xE5 0x87 S_SELECT with ir := 0x22 })
    (fun t => t.muxctl = 0xE2 ∧ t.seq = S_TRIGGER) := by decide
theorem test_selch_history : nextWith (exec .selch { at_ polledCfg 0x40 0x87 S_SELECT with ir := 0x23 })
    (fun t => t.history = [.regWr .muxctl 0x40 0x43]) := by decide

/-- V16: the previous conversion's DONE is cleared. -/
theorem test_trig_clears_done : nextWith (exec .trig (at_ polledCfg 0x43 0x97 S_TRIGGER))
    (fun t => t.ctlstat = 0xC7 ∧ t.seq = S_WAIT) := by decide
theorem test_trig_history : nextWith (exec .trig (at_ polledCfg 0x43 0x87 S_TRIGGER))
    (fun t => t.history = [.regWr .ctlstat 0x87 0xC7, .convStart 3 0b01]) := by decide

/-- V17. -/
theorem test_waitp_stays : nextWith (exec .waitp (at_ polledCfg 0x43 0xC7 S_WAIT))
    (fun t => t = at_ polledCfg 0x43 0xC7 S_WAIT) := by decide
theorem test_waitp_tests_start_alone : nextWith (exec .waitp (at_ polledCfg 0x43 0x87 S_WAIT))
    (fun t => t.seq = S_READY) := by decide

/-- V18. -/
theorem test_waiti_holds : nextWith (exec .waiti (at_ irqCfg 0x43 0xCF S_WAIT))
    (fun t => t = at_ irqCfg 0x43 0xCF S_WAIT) := by decide
theorem test_waiti_consumes : nextWith (exec .waiti { at_ irqCfg 0x43 0x8F S_WAIT with sig := true })
    (fun t => t.sig = false ∧ t.seq = S_READY ∧ t.ctlstat = 0x8F) := by decide

/-- V19, V20. -/
theorem test_conv_done_right : nextWith (exec (.convDone 0x2A5) (at_ polledCfg 0x43 0xC7 S_WAIT))
    (fun t => t.dataHi = 0x02 ∧ t.dataLo = 0xA5 ∧ t.ctlstat = 0x97 ∧
      t.history = [.convDone 0x2A5, .regWr .dataHi 0 0x02, .regWr .dataLo 0 0xA5,
        .regWr .ctlstat 0xC7 0x97]) := by decide
theorem test_conv_done_left : nextWith (exec (.convDone 0x2A5) (at_ leftCfg 0xE7 0xC3 S_WAIT))
    (fun t => t.dataHi = 0xA9 ∧ t.dataLo = 0x40 ∧ t.ctlstat = 0x93) := by decide

/-- V21. -/
theorem test_notify : nextWith (exec .notify { at_ irqCfg 0x43 0x9F S_WAIT with dataHi := 0x02, dataLo := 0x01 })
    (fun t => t.captHi = 0x02 ∧ t.captLo = 0x01 ∧ t.sig ∧ t.ctlstat = 0x8F ∧
      t.history = [.regWr .ctlstat 0x9F 0x8F, .notify]) := by decide
theorem test_notify_not_enabled : nextWith (exec .notify (at_ polledCfg 0x43 0x97 S_WAIT))
    (fun t => t = at_ polledCfg 0x43 0x97 S_WAIT) := by decide

/-- V33: RET reads the source the mode names. -/
theorem test_ret_polled : nextWith (exec .ret
      { at_ polledCfg 0x43 0x97 S_READY with dataHi := 1, dataLo := 2, captHi := 3, captLo := 4 })
    (fun t => t.rsp = some 258 ∧ t.seq = S_IDLE) := by decide
theorem test_ret_interrupt : nextWith (exec .ret
      { at_ irqCfg 0x43 0x8F S_READY with dataHi := 1, dataLo := 2, captHi := 3, captLo := 4 })
    (fun t => t.rsp = some 772 ∧ t.history = [.ret 772]) := by decide

/-- V7 and V8 with the scenario: INIT from reset. -/
theorem test_init_scenario : nextWith (exec .init State.reset)
    (fun t => t.muxctl = 0x40 ∧ t.ctlstat = 0x87 ∧ t.seq = S_IDLE) := by decide

/-- Program P2's READ 7 of a block just initialised: V20 and V28. -/
theorem test_read_left : nextWith (exec (.read 7) { at_ leftCfg 0xE0 0x83 S_IDLE with answers := [0x2A5] })
    (fun t => t.rsp = some 169 ∧ t.muxctl = 0xE7 ∧ t.ctlstat = 0x93 ∧ t.answers = []) := by decide

/-- V10: a FieldWrite is not additive, and V30: the mask of Assemble. -/
theorem test_field_put : fieldPut .chsel 2 0x45 = 0x42 := by decide
theorem test_assemble_mask : assemble .right 0xFE 0x01 = 513 := by decide

/-- V31: the ports. -/
theorem test_ports : let s := at_ polledCfg 0x43 0xC7 S_WAIT
    s.adcEnable ∧ s.muxSel = 0b00011 ∧ s.refSel = 0b01 ∧ s.clkDivSel = 0b111 ∧ s.convRequest ∧
      s.cmdReady = false ∧ s.irq = false := by decide

/-- The first step after reset with a word of the table placed: INIT, and the refusal U2 of a READ. -/
theorem test_first_step_init : nextWith (step (State.reset.withFetchWord 8 0x00))
    (fun t => t.ctlstat = 0x87 ∧ t.turns = []) := by decide
theorem test_first_step_read : refusedAs (step (State.reset.withFetchWord 8 0x20)) .readBeforeInitialize := by
  decide

/-! ## States for the witnesses, with the invariant of each -/

def idle : State := at_ polledCfg 0x40 0x87 S_IDLE
def initMux : State := at_ polledCfg 0x00 0x00 S_INIT_MUX
def initCtl : State := at_ polledCfg 0x40 0x00 S_INIT_CTL
def select : State := { at_ polledCfg 0x40 0x87 S_SELECT with ir := 0x23 }
def trigger : State := at_ polledCfg 0x43 0x87 S_TRIGGER
def polling : State := { at_ polledCfg 0x43 0xC7 S_WAIT with history := [.convStart 3 0b01] }
def complete : State :=
  { at_ polledCfg 0x43 0x97 S_WAIT with
    dataHi := 0x02, dataLo := 0xA5, history := [.convStart 3 0b01, .convDone 0x2A5] }
def ready : State := complete.setSeq S_READY
def irqIdle : State := at_ irqCfg 0x40 0x8F S_IDLE
def irqWaiting : State := { at_ irqCfg 0x43 0xCF S_WAIT with history := [.convStart 3 0b01] }
def irqComplete : State :=
  { at_ irqCfg 0x43 0x9F S_WAIT with
    dataHi := 0x02, dataLo := 0xA5, history := [.convStart 3 0b01, .convDone 0x2A5] }
def irqSignalled : State := after (exec .notify irqComplete) irqComplete

theorem inv_reset : Inv State.reset := by
  constructor <;> (try simp only [MuxResolved, CtlResolved]) <;> decide
theorem inv_idle : Inv idle := by
  constructor <;> (try simp only [MuxResolved, CtlResolved]) <;> decide
theorem inv_select : Inv select := by
  constructor <;> (try simp only [MuxResolved, CtlResolved]) <;> decide
theorem inv_trigger : Inv trigger := by
  constructor <;> (try simp only [MuxResolved, CtlResolved]) <;> decide
theorem inv_polling : Inv polling := by
  constructor <;> (try simp only [MuxResolved, CtlResolved]) <;> decide
theorem inv_complete : Inv complete := by
  constructor <;> (try simp only [MuxResolved, CtlResolved]) <;> decide
theorem inv_ready : Inv ready := by
  constructor <;> (try simp only [MuxResolved, CtlResolved]) <;> decide
theorem inv_irqIdle : Inv irqIdle := by
  constructor <;> (try simp only [MuxResolved, CtlResolved]) <;> decide
theorem inv_irqWaiting : Inv irqWaiting := by
  constructor <;> (try simp only [MuxResolved, CtlResolved]) <;> decide
theorem inv_irqComplete : Inv irqComplete := by
  constructor <;> (try simp only [MuxResolved, CtlResolved]) <;> decide
theorem inv_irqSignalled : Inv irqSignalled := by
  constructor <;> (try simp only [MuxResolved, CtlResolved]) <;> decide

/-- A state that does not meet the invariant: a conversion requested in S_IDLE. -/
theorem inv_is_not_always : ¬ Inv (at_ polledCfg 0x40 0xC7 S_IDLE) := by
  intro h; exact absurd (h.startOnlyInWait (by decide)) (by decide)

theorem fresh_complete : Fresh complete :=
  ⟨fun _ => ⟨0x2A5, by decide, by decide⟩, by decide⟩
theorem fresh_polling : Fresh polling := ⟨by intro h; exact absurd h (by decide), by decide⟩
theorem fresh_ready : Fresh ready := ⟨fun _ => ⟨0x2A5, by decide, by decide⟩, by decide⟩
theorem fresh_irqSignalled : Fresh irqSignalled := ⟨fun _ => ⟨0x2A5, by decide, by decide⟩, by decide⟩

/-! ## A witness for the hypotheses of each obligation that has some -/

theorem witness_DecodeAndEncodeAgree :
    (Instr.read 7#5).wellFormed = true ∧ (Instr.accept 0xFF#8).wellFormed = true ∧
    decode (.cmd 0x27#8) = .instr (.read 7#5) ∧ (Instr.read 8#5).wellFormed = false ∧
    (Instr.read 31#5).wellFormed = false := by decide

theorem witness_FieldWriteReplacesExactlyItsField :
    (31#8).toNat < 2 ^ fieldWidth .chsel ∧ (fieldLo .chsel + fieldWidth .chsel ≤ 5) ∧ (4 < fieldLo .just) ∧
    Field.just ≠ .chsel ∧ fieldReg .just = fieldReg .chsel ∧ (1#8).toNat < 2 ^ fieldWidth .just := by decide

theorem witness_FieldWriteIsBoundsChecked :
    1 < 2 ^ fieldWidth .just ∧ 2 ^ fieldWidth .just ≤ 2 ∧ 7 < 2 ^ fieldWidth .presc ∧
    2 ^ fieldWidth .presc ≤ 8 := by decide

/-- An injective address map: 0 to 3. -/
def addrs : Reg → Nat
  | .muxctl => 0
  | .ctlstat => 1
  | .dataLo => 2
  | .dataHi => 3

theorem witness_RegisterSpaceReadsAndWrites : addrMapOk addrs = true ∧ ∀ r, addrs r ≠ 4 :=
  ⟨by decide, by intro r; cases r <;> decide⟩

theorem witness_ResolvedPatternsAfterResetAndInit : polledCfg.trig = .disabled := by decide

theorem witness_ResolvedPatternsTellConfigurationsApart :
    polledCfg.admitted = true ∧
    exec .init (State.resetOf polledCfg) = .next (after (exec .init (State.resetOf polledCfg)) idle) ∧
    (after (exec .init (State.resetOf polledCfg)) idle).muxctl = 0x40 ∧
    (after (exec .init (State.resetOf polledCfg)) idle).ctlstat = 0x87 := ⟨by decide, rfl, by decide, by decide⟩

/-- One state for each clause, and words at both ends of READ's range and just outside it. -/
theorem witness_AcceptFollowsItsRule :
    let at0 := fun w : Byte => { State.reset with cmdPort := some w }
    let at1 := fun w : Byte => { idle with cmdPort := some w }
    (at0 0).seq = S_IDLE ∧ (at0 0).en = false ∧ (at0 0).cfg.trig = .disabled ∧
    (at1 0).seq = S_IDLE ∧ (at1 0).en = true ∧ (at1 0).cfg.trig = .disabled ∧
    { State.resetOf freeRunningCfg with cmdPort := some 0 }.cfg.trig ≠ .disabled ∧
    (0x20 ≤ (0x20#8).toNat ∧ (0x20#8).toNat ≤ 0x27) ∧ (0x20 ≤ (0x27#8).toNat ∧ (0x27#8).toNat ≤ 0x27) ∧
    ¬ (0x20 ≤ (0x1F#8).toNat ∧ (0x1F#8).toNat ≤ 0x27) ∧ ¬ (0x20 ≤ (0x28#8).toNat ∧ (0x28#8).toNat ≤ 0x27) := by
  decide

theorem witness_InitWritesAreIdempotent : initMux.seq = S_INIT_MUX := by decide

theorem witness_InitmuxWritesReferenceAndJustification : initMux.seq = S_INIT_MUX := by decide
theorem witness_InitctlWritesPrescalerAndEnables : initCtl.seq = S_INIT_CTL := by decide
theorem witness_SelchReplacesTheChannelOnly : select.seq = S_SELECT := by decide
theorem witness_TrigStartsTheConversion : trigger.seq = S_TRIGGER := by decide

theorem witness_WaitpTestsTheStartBit :
    polling.seq = S_WAIT ∧ polling.cfg.mode = .polled ∧ polling.ctlstat &&& 0x40#8 ≠ 0#8 ∧
    complete.seq = S_WAIT ∧ complete.cfg.mode = .polled ∧ complete.ctlstat &&& 0x40#8 = 0#8 := by decide

theorem witness_WaitiConsumesTheSignal :
    irqSignalled.seq = S_WAIT ∧ irqSignalled.cfg.mode = .interrupt ∧ irqSignalled.sig = true ∧
    irqWaiting.seq = S_WAIT ∧ irqWaiting.cfg.mode = .interrupt ∧ irqWaiting.sig = false := by decide

theorem witness_ConvDoneLatchesTheResult : polling.ctlstat &&& 0xC0#8 = 0xC0#8 := by decide
theorem witness_NotifyCapturesAndSignals : irqComplete.ctlstat &&& 0x18#8 = 0x18#8 := by decide
theorem witness_RetReturnsTheAssembledSample : ready.seq = S_READY := by decide

theorem witness_InitHasItsNetEffect :
    State.reset.cfg.trig = .disabled ∧ State.reset.seq = S_IDLE ∧ State.reset.en = false := by decide

theorem witness_PolledReadHasItsNetEffect :
    idle.cfg.trig = .disabled ∧ idle.cfg.mode = .polled ∧ idle.seq = S_IDLE ∧ idle.en = true ∧
    idle.start = false ∧ idle.justBit = justCode idle.cfg.just ∧ (7#5).toNat ≤ 7 := by decide

theorem witness_InterruptReadHasItsNetEffect :
    irqIdle.cfg.trig = .disabled ∧ irqIdle.cfg.mode = .interrupt ∧ irqIdle.seq = S_IDLE ∧
    irqIdle.en = true ∧ irqIdle.start = false ∧ irqIdle.ien = true ∧
    irqIdle.justBit = justCode irqIdle.cfg.just ∧ (0#5).toNat ≤ 7 := by decide

theorem witness_CommandsOutsideTheirPreconditions :
    ((State.resetOf freeRunningCfg).seq = S_IDLE ∧ (State.resetOf freeRunningCfg).cfg.trig ≠ .disabled) ∧
    (idle.seq = S_IDLE ∧ idle.cfg.trig = .disabled ∧ idle.en = true ∧ 7 < (8#5).toNat) ∧
    (State.reset.seq = S_IDLE ∧ State.reset.en = false ∧ (7#5).toNat ≤ 7) ∧ polling.seq ≠ S_IDLE := by decide

/-- `polling` is in none of the other micro-operations' states, `idle` not in S_WAIT, and no event is
enabled in `idle`. -/
theorem witness_StepsNotEnabledChangeNothing :
    ¬ (polling.seq = S_IDLE ∧ polling.cmdPort = some 0x23#8) ∧ polling.seq ≠ S_SELECT ∧
    polling.seq ≠ S_TRIGGER ∧ polling.seq ≠ S_READY ∧ polling.seq ≠ S_INIT_MUX ∧ polling.seq ≠ S_INIT_CTL ∧
    ¬ (idle.seq = S_WAIT ∧ idle.cfg.mode = .polled) ∧
    ¬ (irqWaiting.seq = S_WAIT ∧ irqWaiting.cfg.mode = .interrupt ∧ irqWaiting.sig = true) ∧
    idle.ctlstat &&& 0xC0#8 ≠ 0xC0#8 ∧ idle.ctlstat &&& 0x18#8 ≠ 0x18#8 := by decide

/-- Every clause: one instruction of it that answers a next state. -/
theorem witness_StepsWriteOnlyTheirRegisters :
    addrMapOk addrs = true ∧ exec .selch select = .next (after (exec .selch select) select) ∧
    exec .trig trigger = .next (after (exec .trig trigger) trigger) ∧
    exec .ret ready = .next (after (exec .ret ready) ready) ∧
    exec (.convDone 5) polling = .next (after (exec (.convDone 5) polling) polling) ∧
    exec .init State.reset = .next (after (exec .init State.reset) State.reset) ∧
    (1 : Nat) ≠ addrs .muxctl ∧ (0 : Nat) ≠ addrs .ctlstat := ⟨by decide, rfl, rfl, rfl, rfl, rfl, by decide, by decide⟩

/-- A state with a given turn next. -/
def turn (t : Turn) (s : State) : State := { s with turns := [t] }

theorem witness_StepRunsTheDecodedInstruction :
    let b := fun t s => (turn t s).beginStep
    (reservedValue (turn .seq select) = none ∧ (turn .seq select).nextTurn = .seq ∧
      fetchSeq (b .seq select) = some (.seq S_SELECT .polled 0#8) ∧ fetchSeq (b .seq idle) = none) ∧
    ((turn .conv polling).nextTurn = .conv ∧
      decode (.conv (b .conv { polling with answers := [5] }).ctlstat 5#10) = .instr (.convDone 5#10) ∧
      decode (.conv (b .conv idle).ctlstat 5#10) = .rejected .convDoneNotEnabled) ∧
    ((turn .notify irqComplete).nextTurn = .notify ∧
      decode (.notify (b .notify irqComplete).ctlstat) = .instr .notify ∧
      decode (.notify (b .notify idle).ctlstat) = .rejected .notifyNotEnabled) ∧
    ((turn .command idle).nextTurn = .command ∧
      (hostPresents (b .command { idle with cmds := [0x23] })).cmdPort = some 0x23#8 ∧
      decode (.cmd 0x23#8) = .instr (.read 3#5) ∧ decode (.cmd 0x28#8) = .rejected .channelOutOfRange ∧
      (hostPresents (b .command idle)).cmdPort = none) ∧
    (turn .host idle).nextTurn = .host ∧ (turn .rst idle).nextTurn = .rst := by decide

theorem witness_PlacedTableWordRunsNext :
    decodeTableWord 8 0xC0 = some (.convDone 0#10) ∧ reservedValue (State.reset.withFetchWord 8 0xC0) = none ∧
    decodeTableWord 8 0x6 = some .initctl ∧ reservedValue (State.reset.withFetchWord 8 0x6) = none := by decide

theorem witness_ReservedStatesAreRefused :
    refusedAs (step (at_ polledCfg 0x40 0x87 7#3)) .reservedSequencerState ∧
    refusedAs (step (at_ polledCfg 0x80 0x87 S_IDLE)) .reservedReference ∧
    refusedAs (step (at_ polledCfg 0x48 0x87 S_IDLE)) .reservedChannel ∧
    refusedAs (step (at_ polledCfg 0x40 0xA7 S_IDLE)) .reservedAutoTriggerBit ∧
    reservedValue (at_ polledCfg 0x47 0x87 S_IDLE) = none := by decide

theorem witness_HostOnlyPresentsWords :
    (turn .host { idle with cmds := [0x23] }).nextTurn = .host ∧
    step (turn .host { idle with cmds := [0x23] }) =
      .next (after (step (turn .host { idle with cmds := [0x23] })) idle) ∧
    (turn .host { idle with cmdPort := some 0x20 }).nextTurn = .host ∧
    step (turn .host { idle with cmdPort := some 0x20 }) =
      .next (after (step (turn .host { idle with cmdPort := some 0x20 })) idle) :=
  ⟨rfl, rfl, rfl, rfl⟩

theorem witness_ResetInARunRestoresTheResetState :
    let s := { polling with turns := [.rst, .conv] }
    reservedValue s = none ∧ s.nextTurn = .rst ∧ (after (step s) s).nextTurn = .conv ∧
    (after (step { s with turns := [.rst, .notify] }) s).nextTurn = .notify := by decide

/-- A state for each row of the transition table: SEQ, its turn and the row's condition. The two refused
rows: a READ before INIT, and an auto-trigger configuration. -/
theorem witness_SequencerFollowsTheTransitionTable :
    (∀ s ∈ [idle, { State.reset with cmdPort := some 0x00 }, { idle with cmdPort := some 0x20 },
        { idle with cmdPort := some 0x27 }, { State.reset with cmdPort := some 0x23 },
        { State.resetOf freeRunningCfg with cmdPort := some 0x00 }, initMux, initCtl, select, trigger,
        polling, complete, irqWaiting, irqSignalled, ready],
      reservedValue (turn .seq s) = none ∧ (turn .seq s).nextTurn = .seq) ∧
    idle.seq = S_IDLE ∧ idle.cmdPort = none ∧ State.reset.en = false ∧ idle.en = true ∧
    idle.cfg.trig = .disabled ∧ freeRunningCfg.trig ≠ .disabled ∧ initMux.seq = S_INIT_MUX ∧
    initCtl.seq = S_INIT_CTL ∧ select.seq = S_SELECT ∧ trigger.seq = S_TRIGGER ∧
    (polling.seq = S_WAIT ∧ polling.start = true ∧ complete.seq = S_WAIT ∧ complete.start = false) ∧
    (irqWaiting.seq = S_WAIT ∧ irqWaiting.sig = false ∧ irqSignalled.seq = S_WAIT ∧
      irqSignalled.sig = true) ∧ ready.seq = S_READY ∧
    (turn .conv polling).nextTurn = .conv := by decide

/-- Each row, run: the state the table gives. -/
theorem test_transition_table :
    let stepsTo := fun s (q : BitVec 3) => nextWith (step (turn .seq s)) (fun t => t.seq = q)
    stepsTo idle S_IDLE ∧ stepsTo { State.reset with cmdPort := some 0x00 } S_INIT_MUX ∧
    stepsTo { idle with cmdPort := some 0x27 } S_SELECT ∧ stepsTo initMux S_INIT_CTL ∧
    stepsTo initCtl S_IDLE ∧ stepsTo select S_TRIGGER ∧ stepsTo trigger S_WAIT ∧ stepsTo polling S_WAIT ∧
    stepsTo complete S_READY ∧ stepsTo irqWaiting S_WAIT ∧ stepsTo irqSignalled S_READY ∧
    stepsTo ready S_IDLE := by decide

theorem witness_EventsNeverMoveTheSequencer :
    (turn .conv polling).nextTurn = .conv ∧
    step (turn .conv polling) = .next (after (step (turn .conv polling)) polling) ∧
    (turn .notify irqComplete).nextTurn = .notify ∧
    step (turn .notify irqComplete) = .next (after (step (turn .notify irqComplete)) polling) ∧
    (turn .host idle).nextTurn = .host ∧
    step (turn .host idle) = .next (after (step (turn .host idle)) idle) := ⟨rfl, rfl, rfl, rfl, rfl, rfl⟩

/-- A next state exists: the hypothesis of EveryStepKeepsTheConfiguration and of
EveryStepOnlyAppendsToTheHistory. -/
theorem witness_EveryStepKeepsTheConfiguration :
    step (turn .seq select) = .next (after (step (turn .seq select)) select) := rfl
theorem witness_EveryStepOnlyAppendsToTheHistory :
    step (turn .seq trigger) = .next (after (step (turn .seq trigger)) trigger) := rfl

theorem witness_OnlyResetDisablesThePeripheral :
    step (turn .seq select) = .next (after (step (turn .seq select)) select) ∧
    (turn .seq select).nextTurn ≠ .rst ∧ (turn .seq select).en = true := ⟨rfl, by decide, by decide⟩

theorem witness_ReadsKeepReferenceAndJustification :
    step (turn .seq select) = .next (after (step (turn .seq select)) select) ∧
    (turn .seq select).en = true ∧ (turn .seq select).seq ≠ S_INIT_MUX ∧
    (turn .seq select).nextTurn ≠ .rst := ⟨rfl, by decide, by decide, by decide⟩

/-- `Inv` does not read the turns. -/
theorem inv_turn {s : State} (h : Inv s) (t : Turn) : Inv (turn t s) := ⟨h.1, h.2, h.3, h.4, h.5, h.6, h.7,
  h.8, h.9, h.10, h.11, h.12, h.13, h.14, h.15, h.16, h.17⟩

/-- Each clause: the completion that raises irq, the notifier's step that lowers it, and a polled state. -/
theorem witness_IrqRisesWithCompletionAndFallsWithNotify :
    (Inv (turn .conv irqWaiting) ∧ (turn .conv irqWaiting).cfg.mode = .interrupt ∧
      (turn .conv irqWaiting).nextTurn = .conv ∧ (turn .conv irqWaiting).inFlight = true ∧
      (turn .conv irqWaiting).irq = false ∧
      step (turn .conv irqWaiting) = .next (after (step (turn .conv irqWaiting)) irqWaiting) ∧
      (after (step (turn .conv irqWaiting)) irqWaiting).irq = true) ∧
    (Inv (turn .notify irqComplete) ∧ (turn .notify irqComplete).irq = true ∧
      (turn .notify irqComplete).nextTurn = .notify ∧
      step (turn .notify irqComplete) = .next (after (step (turn .notify irqComplete)) irqComplete) ∧
      (after (step (turn .notify irqComplete)) irqComplete).irq = false) ∧
    (Inv (turn .seq polling) ∧ (turn .seq polling).cfg.mode = .polled ∧
      step (turn .seq polling) = .next (after (step (turn .seq polling)) polling)) :=
  ⟨⟨inv_turn inv_irqWaiting _, rfl, rfl, rfl, rfl, rfl, rfl⟩, ⟨inv_turn inv_irqComplete _, rfl, rfl, rfl, rfl⟩,
   ⟨inv_turn inv_polling _, rfl, rfl⟩⟩

theorem witness_StartIsRaisedByTrigAndLoweredByConvDone :
    (Inv (turn .seq trigger) ∧ (turn .seq trigger).start = false ∧
      (after (step (turn .seq trigger)) trigger).start = true ∧
      step (turn .seq trigger) = .next (after (step (turn .seq trigger)) trigger)) ∧
    (Inv (turn .conv polling) ∧ (turn .conv polling).start = true ∧
      (after (step (turn .conv polling)) polling).start = false ∧
      step (turn .conv polling) = .next (after (step (turn .conv polling)) polling)) :=
  ⟨⟨inv_turn inv_trigger _, rfl, rfl, rfl⟩, ⟨inv_turn inv_polling _, rfl, rfl, rfl⟩⟩

theorem witness_EveryStepKeepsTheInvariant :
    Inv (turn .conv polling) ∧
    step (turn .conv polling) = .next (after (step (turn .conv polling)) polling) :=
  ⟨inv_turn inv_polling _, rfl⟩

theorem witness_EveryStepKeepsTheResultFresh :
    Inv (turn .seq complete) ∧ Fresh (turn .seq complete) ∧
    step (turn .seq complete) = .next (after (step (turn .seq complete)) complete) :=
  ⟨inv_turn inv_complete _, ⟨fresh_complete.1, fresh_complete.2⟩, rfl⟩

theorem witness_RetReturnsTheConversionJustStarted : Inv ready ∧ Fresh ready ∧ ready.seq = S_READY :=
  ⟨inv_ready, fresh_ready, rfl⟩

/-- A host with INIT and two READs left, and one with a READ at the port. -/
theorem witness_DutifulHostIsNeverRefused :
    (Inv State.reset ∧ HostKeepsDuties { State.reset with cmds := [0x00, 0x20, 0x27], turns := [.host] } ∧
      { State.reset with cmds := [0x00], turns := [.host] }.nextTurn ≠ .rst) ∧
    HostKeepsDuties { idle with cmdPort := some 0x23 } ∧
    ¬ HostKeepsDuties { State.reset with cmds := [0x20] } ∧ ¬ HostKeepsDuties { idle with cmds := [0x00] } := by
  refine ⟨⟨inv_reset, ?_, by decide⟩, ?_, ?_, ?_⟩ <;> unfold HostKeepsDuties <;> decide

theorem witness_NoReachableStateIsStuck : Inv polling ∧ Inv irqWaiting ∧ Inv select :=
  ⟨inv_polling, inv_irqWaiting, inv_select⟩

/-- Both directions: the interrupt-mode hold of P4 is such a state, and the polled one is not. -/
theorem witness_SilentConverterLeavesExactlyTheInterruptHold :
    (Inv irqWaiting ∧ irqWaiting.isStuckIfSilent = true ∧ irqWaiting.seq = S_WAIT ∧
      irqWaiting.cfg.mode = .interrupt ∧ irqWaiting.start = true ∧ irqWaiting.hostEnabled = false) ∧
    (Inv polling ∧ polling.isStuckIfSilent = false) := ⟨⟨inv_irqWaiting, by decide⟩, inv_polling, by decide⟩

theorem witness_PollingDoneEqualsPollingStart : Inv polling ∧ Inv complete ∧ complete.seq = S_WAIT :=
  ⟨inv_polling, inv_complete, rfl⟩

theorem witness_UnansweredPolledReadHangs :
    let s := { polling with turns := List.replicate 3 Turn.seq ++ [.conv] }
    reservedValue s = none ∧ s.seq = S_WAIT ∧ s.cfg.mode = .polled ∧ s.start = true ∧ s.rsp = none ∧
    s.turns = List.replicate 3 Turn.seq ++ [.conv] := by decide

theorem witness_UnansweredInterruptReadHolds :
    let ts := [Turn.seq, .notify, .seq]
    let s := { irqWaiting with turns := ts ++ [.conv] }
    reservedValue s = none ∧ s.seq = S_WAIT ∧ s.cfg.mode = .interrupt ∧ s.sig = false ∧ s.done = false ∧
    s.rsp = none ∧ (∀ t ∈ ts, t = .seq ∨ t = .notify) ∧ s.turns = ts ++ [.conv] := by decide

/-- `idle` with READ 7 at the port and an answer to come, and the turns of its small steps. -/
def readSeven : State :=
  { idle with cmdPort := some (readWord 7), answers := [0x2A5], turns := polledReadTurns 2 ++ [.host] }

theorem witness_PolledReadBySmallStepsIsTheCommand :
    Inv readSeven ∧ readSeven.seq = S_IDLE ∧ readSeven.cfg.mode = .polled ∧
    readSeven.cmdPort = some (readWord 7) ∧ (7#5).toNat ≤ 7 ∧ readSeven.rsp = none ∧
    exec (.read 7) readSeven = .next (after (exec (.read 7) readSeven) idle) ∧
    readSeven.turns = polledReadTurns 2 ++ [.host] :=
  ⟨⟨inv_idle.1, inv_idle.2, inv_idle.3, inv_idle.4, inv_idle.5, inv_idle.6, inv_idle.7, inv_idle.8, inv_idle.9,
    inv_idle.10, inv_idle.11, inv_idle.12, inv_idle.13, inv_idle.14, inv_idle.15, inv_idle.16, inv_idle.17⟩,
   rfl, rfl, rfl, by decide, rfl, rfl, rfl⟩

/-- The same in interrupt mode. -/
def irqReadSeven : State :=
  { irqIdle with cmdPort := some (readWord 7), answers := [0x2A5], turns := interruptReadTurns 1 2 ++ [.host] }

theorem witness_InterruptReadBySmallStepsIsTheCommand :
    Inv irqReadSeven ∧ irqReadSeven.seq = S_IDLE ∧ irqReadSeven.cfg.mode = .interrupt ∧
    irqReadSeven.cmdPort = some (readWord 7) ∧ (7#5).toNat ≤ 7 ∧ irqReadSeven.rsp = none ∧
    exec (.read 7) irqReadSeven = .next (after (exec (.read 7) irqReadSeven) irqIdle) ∧
    irqReadSeven.turns = interruptReadTurns 1 2 ++ [.host] :=
  ⟨⟨inv_irqIdle.1, inv_irqIdle.2, inv_irqIdle.3, inv_irqIdle.4, inv_irqIdle.5, inv_irqIdle.6, inv_irqIdle.7,
    inv_irqIdle.8, inv_irqIdle.9, inv_irqIdle.10, inv_irqIdle.11, inv_irqIdle.12, inv_irqIdle.13,
    inv_irqIdle.14, inv_irqIdle.15, inv_irqIdle.16, inv_irqIdle.17⟩, rfl, rfl, rfl, by decide, rfl, rfl, rfl⟩

/-- Reset with INIT at the port and its three turns. -/
def initAtPort : State :=
  { State.reset with cmdPort := some 0x00, turns := List.replicate 3 Turn.seq ++ [.host] }

theorem witness_InitFinishesInThreeSteps :
    Inv initAtPort ∧ initAtPort.seq = S_IDLE ∧ initAtPort.cmdPort = some 0x00#8 ∧ initAtPort.rsp = none ∧
    exec .init initAtPort = .next (after (exec .init initAtPort) idle) ∧
    initAtPort.turns = List.replicate 3 Turn.seq ++ [.host] :=
  ⟨⟨inv_reset.1, inv_reset.2, inv_reset.3, inv_reset.4, inv_reset.5, inv_reset.6, inv_reset.7, inv_reset.8,
    inv_reset.9, inv_reset.10, inv_reset.11, inv_reset.12, inv_reset.13, inv_reset.14, inv_reset.15,
    inv_reset.16, inv_reset.17⟩, rfl, rfl, rfl, rfl, rfl⟩

/-! The infinite run of the liveness statement: a polled READ from S_SELECT, then idle for ever. -/

/-- SELCH, TRIG, CONV_DONE, WAITP, RET, and SEQ turns from then on. -/
def runSched : Nat → Turn
  | 2 => .conv
  | _ => .seq

/-- The states of that run. From the sixth on the block is idle and nothing changes. -/
def runStates : Nat → State
  | 0 => { select with answers := [0x2A5] }
  | n + 1 =>
    let s := runStates n
    after (step (s.withTurn (runSched n))) s

/-- The state the run comes to rest in. -/
def rest_ : State := (runStates 5).setRsp none

theorem runSched_rest (n : Nat) : runSched (n + 6) = .seq := by simp [runSched]

/-- At rest a SEQ turn changes nothing. -/
theorem rest_step : step (rest_.withTurn .seq) = .next rest_ := rfl

theorem run_rest (n : Nat) : runStates (n + 6) = rest_ := by
  induction n with
  | zero => rfl
  | succ n ih =>
    show after (step ((runStates (n + 6)).withTurn (runSched (n + 6)))) (runStates (n + 6)) = rest_
    rw [ih, runSched_rest, rest_step]; rfl

/-- What holds of every state of the run holds of seven states. -/
theorem run_all {p : Nat → State → Prop} (h : ∀ n < 6, p n (runStates n)) (hr : ∀ n, p (n + 6) rest_) (n : Nat) :
    p n (runStates n) := by
  by_cases hn : n < 6
  · exact h n hn
  · obtain ⟨k, rfl⟩ := Nat.exists_eq_add_of_le' (Nat.le_of_not_lt hn)
    rw [run_rest]; exact hr k

theorem run_is_a_run : IsRun runSched runStates := by
  intro n
  by_cases hn : n < 6
  · have : n = 0 ∨ n = 1 ∨ n = 2 ∨ n = 3 ∨ n = 4 ∨ n = 5 := by omega
    rcases this with rfl | rfl | rfl | rfl | rfl | rfl <;> rfl
  · obtain ⟨k, rfl⟩ := Nat.exists_eq_add_of_le' (Nat.le_of_not_lt hn)
    rw [run_rest, show k + 6 + 1 = (k + 1) + 6 from rfl, run_rest, runSched_rest, rest_step]

theorem run_no_reset : NoReset runSched := by
  intro n; unfold runSched; split <;> decide

theorem run_answered : ConverterResponds runSched runStates := by
  refine run_all (p := fun n s => s.inFlight = true → ∃ m, n ≤ m ∧ runSched m = .conv ∧ (runStates m).inFlight = true)
    ?_ ?_
  · intro n hn hf
    have : n = 0 ∨ n = 1 ∨ n = 2 ∨ n = 3 ∨ n = 4 ∨ n = 5 := by omega
    rcases this with rfl | rfl | rfl | rfl | rfl | rfl
    · exact absurd hf (by decide)
    · exact absurd hf (by decide)
    · exact ⟨2, Nat.le_refl 2, rfl, hf⟩
    · exact absurd hf (by decide)
    · exact absurd hf (by decide)
    · exact absurd hf (by decide)
  · intro n hf; exact absurd hf (by decide)

theorem run_fair_seq : WeaklyFair .seq runSched runStates := by
  intro n h
  exact absurd (h (n + 6) (Nat.le_add_right n 6)) (by rw [run_rest]; decide)

theorem run_fair_notify : WeaklyFair .notify runSched runStates := by
  intro n h
  exact absurd (h (n + 6) (Nat.le_add_right n 6)) (by rw [run_rest]; decide)

theorem witness_EveryReadReturnsWhenTheConverterResponds :
    Inv (runStates 0) ∧ IsRun runSched runStates ∧ NoReset runSched ∧
    ConverterResponds runSched runStates ∧ WeaklyFair .seq runSched runStates ∧
    WeaklyFair .notify runSched runStates ∧ (runStates 0).seq = S_SELECT :=
  ⟨⟨inv_select.1, inv_select.2, inv_select.3, inv_select.4, inv_select.5, inv_select.6, inv_select.7,
    inv_select.8, inv_select.9, inv_select.10, inv_select.11, inv_select.12, inv_select.13, inv_select.14,
    inv_select.15, inv_select.16, inv_select.17⟩,
   run_is_a_run, run_no_reset, run_answered, run_fair_seq, run_fair_notify, rfl⟩

/-- A step with a response and steps without one. -/
theorem witness_ResponseIsValidForItsStepOnly :
    nextWith (step (turn .seq ready)) (fun t => t.rsp = some 0x2A5) ∧ (turn .seq ready).nextTurn = .seq ∧
    nextWith (step (turn .seq complete)) (fun t => t.rsp = none) ∧ complete.seq ≠ S_READY := by decide

end Sys2Proof.Tests
end

section
/-! PROOFS. Laws of the operations that the statements on scope, holding and the transition table need: register
writes and the address space, the enabled and the held case of each micro-operation and event, ACCEPT case by
case, a whole command, and the step of each turn. -/

namespace Sys2Proof.Machine

/-! Register writes: SEQ and everything but the four registers and the history (R38, R62). -/

@[simp] theorem State.writeReg_seq (s : State) (r : Reg) (v : Byte) : (s.writeReg r v).seq = s.seq := by
  simp [State.writeReg]

@[simp] theorem State.writeFields_seq (s : State) (r : Reg) (fs : List (Field × Byte)) :
    (s.writeFields r fs).seq = s.seq := State.writeReg_seq s r _

theorem State.writeReg_frame (s : State) (r : Reg) (v : Byte) :
    s.writeReg r v = { s with
      muxctl := (s.writeReg r v).muxctl, ctlstat := (s.writeReg r v).ctlstat,
      dataLo := (s.writeReg r v).dataLo, dataHi := (s.writeReg r v).dataHi,
      history := s.history ++ [.regWr r (s.reg r) v] } := by
  cases r <;> rfl

/-! The address space (R15, R64, R70). -/

theorem Reg.mem_all (r : Reg) : r ∈ Reg.all := by cases r <;> decide

/-- A well-formed address map gives two registers two addresses (R70). -/
theorem injective_of_addrMapOk {regAddr : Reg → Nat} (h : addrMapOk regAddr = true) :
    Function.Injective regAddr := fun q r hqr =>
  List.inj_on_of_nodup_map (of_decide_eq_true h) (Reg.mem_all q) (Reg.mem_all r) hqr

theorem regAt_eq_none {regAddr : Reg → Nat} {a : Nat} : regAt regAddr a = none ↔ ∀ r, regAddr r ≠ a := by
  simp [regAt, Reg.mem_all]

/-- The register found at an address is mapped to it. -/
theorem regAddr_of_regAt {regAddr : Reg → Nat} {a : Nat} {r : Reg} (h : regAt regAddr a = some r) :
    regAddr r = a := by
  unfold regAt at h
  simpa using List.find?_some h

theorem regAt_regAddr {regAddr : Reg → Nat} (h : addrMapOk regAddr = true) (r : Reg) :
    regAt regAddr (regAddr r) = some r := by
  cases hq : regAt regAddr (regAddr r) with
  | none => exact absurd rfl (regAt_eq_none.1 hq r)
  | some q => rw [injective_of_addrMapOk h (regAddr_of_regAt hq)]

theorem memRead_regAddr {regAddr : Reg → Nat} (h : addrMapOk regAddr = true) (r : Reg) (s : State) :
    memRead regAddr (regAddr r) s = .ok (s.reg r) := by
  simp [memRead, regAt_regAddr h]

theorem memWrite_regAddr {regAddr : Reg → Nat} (h : addrMapOk regAddr = true) (r : Reg) (v : Byte)
    (s : State) : memWrite regAddr (regAddr r) v s = .next (s.writeReg r v) := by
  simp [memWrite, regAt_regAddr h]

theorem memRead_unmapped {regAddr : Reg → Nat} {a : Nat} (h : ∀ r, regAddr r ≠ a) (s : State) :
    memRead regAddr a s = .error (.unmappedRegister a) := by
  simp [memRead, regAt_eq_none.2 h]

theorem memWrite_unmapped {regAddr : Reg → Nat} {a : Nat} (h : ∀ r, regAddr r ≠ a) (v : Byte) (s : State) :
    memWrite regAddr a v s = .refused (.unmappedRegister a) := by
  simp [memWrite, regAt_eq_none.2 h]

/-! Each micro-operation and event where it is enabled, and where its agent holds (R16). -/

theorem execAccept_enabled {w : Byte} {s : State} (hq : s.seq = S_IDLE) (hp : s.cmdPort = some w) :
    execAccept w s = acceptWord w s := if_pos ⟨hq, hp⟩

theorem execAccept_held {w : Byte} {s : State} (h : ¬ (s.seq = S_IDLE ∧ s.cmdPort = some w)) :
    execAccept w s = .next s := if_neg h

theorem execSelch_enabled {s : State} (h : s.seq = S_SELECT) :
    execSelch s = .next ((s.writeFields .muxctl [(.chsel, s.irChannel)]).setSeq S_TRIGGER) := if_pos h

theorem execSelch_held {s : State} (h : s.seq ≠ S_SELECT) : execSelch s = .next s := if_neg h

theorem execTrig_enabled {s : State} (h : s.seq = S_TRIGGER) :
    execTrig s = .next ((((s.writeFields .ctlstat [(.start, 1#8), (.done, 0#8)]).setSig false).emit
      (.convStart s.chsel s.refs)).setSeq S_WAIT) := if_pos h

theorem execTrig_held {s : State} (h : s.seq ≠ S_TRIGGER) : execTrig s = .next s := if_neg h

/-- With START = 1 WAITP polls again (R162). -/
theorem execWaitp_polls {s : State} (hq : s.seq = S_WAIT) (hm : s.cfg.mode = .polled)
    (hs : s.start = true) : execWaitp s = .next (s.setSeq S_WAIT) := by
  simp [execWaitp, hq, hm, hs]

/-- With START = 0 WAITP leaves the wait (R162). -/
theorem execWaitp_leaves {s : State} (hq : s.seq = S_WAIT) (hm : s.cfg.mode = .polled)
    (hs : s.start = false) : execWaitp s = .next (s.setSeq S_READY) := by
  simp [execWaitp, hq, hm, hs]

theorem execWaitp_held {s : State} (h : ¬ (s.seq = S_WAIT ∧ s.cfg.mode = .polled)) :
    execWaitp s = .next s := if_neg h

theorem execWaiti_enabled {s : State} (hq : s.seq = S_WAIT) (hm : s.cfg.mode = .interrupt)
    (hs : s.sig = true) : execWaiti s = .next ((s.setSig false).setSeq S_READY) := if_pos ⟨hq, hm, hs⟩

theorem execWaiti_held {s : State} (h : ¬ (s.seq = S_WAIT ∧ s.cfg.mode = .interrupt ∧ s.sig = true)) :
    execWaiti s = .next s := if_neg h

/-- Without the signal WAITI holds, whatever SEQ and the mode are (R163). -/
theorem execWaiti_unsignalled {s : State} (hs : s.sig = false) : execWaiti s = .next s :=
  execWaiti_held (by simp [hs])

theorem execRet_enabled {s : State} (h : s.seq = S_READY) :
    execRet s = .next (((s.setRsp (some s.sample)).emit (.ret s.sample)).setSeq S_IDLE) := if_pos h

theorem execRet_held {s : State} (h : s.seq ≠ S_READY) : execRet s = .next s := if_neg h

theorem execInitmux_enabled {s : State} (h : s.seq = S_INIT_MUX) :
    execInitmux s = .next ((s.writeFields .muxctl (muxInit s.cfg)).setSeq S_INIT_CTL) := if_pos h

theorem execInitmux_held {s : State} (h : s.seq ≠ S_INIT_MUX) : execInitmux s = .next s := if_neg h

theorem execInitctl_enabled {s : State} (h : s.seq = S_INIT_CTL) :
    execInitctl s =
      .next (((s.writeFields .ctlstat (ctlInit s.cfg)).emit .initDone).setSeq S_IDLE) := if_pos h

theorem execInitctl_held {s : State} (h : s.seq ≠ S_INIT_CTL) : execInitctl s = .next s := if_neg h

theorem execConvDone_enabled {raw : Sample} {s : State} (h : s.inFlight = true) :
    execConvDone raw s =
      .next ((((s.emit (.convDone raw)).writeReg .dataHi (latch s.justBit raw).1).writeReg .dataLo
        (latch s.justBit raw).2).writeFields .ctlstat [(.start, 0#8), (.done, 1#8)]) := if_pos h

theorem execConvDone_held {raw : Sample} {s : State} (h : ¬ s.inFlight = true) :
    execConvDone raw s = .next s := if_neg h

theorem execNotify_enabled {s : State} (h : s.irqPending = true) :
    execNotify s = .next (takeCompletionInterrupt s) := if_pos h

theorem execNotify_held {s : State} (h : ¬ s.irqPending = true) : execNotify s = .next s := if_neg h

/-- The guard of CONV_DONE as a mask of CTLSTAT (R37, R97). -/
theorem State.inFlight_iff (s : State) : s.inFlight = true ↔ s.ctlstat &&& 0xC0#8 = 0xC0#8 := by
  rw [convGuard]; rfl

/-- The guard of NOTIFY as a mask of CTLSTAT (R37, R97). -/
theorem State.irqPending_iff (s : State) : s.irqPending = true ↔ s.ctlstat &&& 0x18#8 = 0x18#8 := by
  rw [notifyGuard]; rfl

/-! Command words (R82, R83, R94). -/

/-- A channel word is one of 0x20 to 0x27. -/
def IsReadWord (w : Byte) : Prop := 0x20 ≤ w.toNat ∧ w.toNat ≤ 0x27

theorem isReadWord_readWord {ch : BitVec 5} (h : ch.toNat ≤ 7) : IsReadWord (readWord ch) := by
  unfold IsReadWord; revert ch; decide

theorem not_isReadWord_readWord {ch : BitVec 5} (h : 7 < ch.toNat) : ¬ IsReadWord (readWord ch) := by
  unfold IsReadWord; revert ch; decide

theorem readWord_ne_zero (ch : BitVec 5) : readWord ch ≠ 0x00#8 := by revert ch; decide

theorem IsReadWord.ne_zero {w : Byte} (h : IsReadWord w) : w ≠ 0x00#8 := by
  rintro rfl; exact absurd h.1 (by decide)

theorem decodeCommand_zero : decodeCommand 0x00#8 = .instr .init := rfl

theorem eq_zero_of_decodeCommand_init {w : Byte} (h : decodeCommand w = .instr .init) : w = 0x00#8 := by
  revert w; decide

theorem IsReadWord.decode {w : Byte} (h : IsReadWord w) : decodeCommand w = .instr (.read (cmdArg w)) := by
  unfold IsReadWord at h; revert w; decide

/-- Every word but INIT's and the eight READ words is reserved (R94). -/
theorem decodeCommand_reserved {w : Byte} (h0 : w ≠ 0x00#8) (hr : ¬ IsReadWord w) :
    ∃ why, decodeCommand w = .rejected why := by
  rcases decodeCommand_cases w with hd | ⟨c, -, hc, rfl⟩ | hd
  · exact absurd (eq_zero_of_decodeCommand_init hd) h0
  · exact absurd (isReadWord_readWord hc) hr
  · exact hd

/-! ACCEPT's body, case by case in the rule's order (R131). -/

@[simp] theorem State.take_seq (s : State) (w : Byte) (q : BitVec 3) : (s.take w q).seq = q := rfl

/-- Only DISABLED is an implemented trigger source (R115). -/
theorem trigResolve_unimplemented {t : Trig} (h : t ≠ .disabled) : trigResolve t = .unimplemented := by
  cases t with
  | disabled => exact absurd rfl h
  | _ => rfl

theorem acceptWord_autoTrigger (w : Byte) {s : State} (h : s.cfg.trig ≠ .disabled) :
    acceptWord w s = .refused .autoTriggerUnimplemented := by
  simp [acceptWord, trigResolve_unimplemented h]

theorem acceptWord_reserved {w : Byte} {s : State} (ht : s.cfg.trig = .disabled) (h0 : w ≠ 0x00#8)
    (hr : ¬ IsReadWord w) : acceptWord w s = .refused .reservedCommand := by
  obtain ⟨why, hd⟩ := decodeCommand_reserved h0 hr
  simp [acceptWord, ht, trigResolve, hd]

theorem acceptWord_init {s : State} (ht : s.cfg.trig = .disabled) (he : s.en = false) :
    acceptWord 0x00#8 s = .next (s.take 0x00#8 S_INIT_MUX) := by
  simp [acceptWord, ht, trigResolve, decodeCommand_zero, he]

theorem acceptWord_reInitialize {s : State} (ht : s.cfg.trig = .disabled) (he : s.en = true) :
    acceptWord 0x00#8 s = .refused .reInitialize := by
  simp [acceptWord, ht, trigResolve, decodeCommand_zero, he]

theorem acceptWord_read {w : Byte} {s : State} (ht : s.cfg.trig = .disabled) (hr : IsReadWord w)
    (he : s.en = true) : acceptWord w s = .next (s.take w S_SELECT) := by
  simp [acceptWord, ht, trigResolve, hr.decode, he]

theorem acceptWord_readBeforeInitialize {w : Byte} {s : State} (ht : s.cfg.trig = .disabled)
    (hr : IsReadWord w) (he : s.en = false) : acceptWord w s = .refused .readBeforeInitialize := by
  simp [acceptWord, ht, trigResolve, hr.decode, he]

/-- The refused row of R142: an auto-trigger configuration, or neither INIT with EN = 0 nor READ with EN = 1. -/
theorem acceptWord_refused {w : Byte} {s : State}
    (h : s.cfg.trig ≠ .disabled ∨ (¬ (w = 0x00#8 ∧ s.en = false) ∧ ¬ (IsReadWord w ∧ s.en = true))) :
    ∃ why, acceptWord w s = .refused why := by
  by_cases ht : s.cfg.trig = .disabled
  case neg => exact ⟨_, acceptWord_autoTrigger w ht⟩
  obtain ⟨hi, hr⟩ := h.resolve_left (not_not_intro ht)
  by_cases h0 : w = 0x00#8
  · subst h0
    exact ⟨_, acceptWord_reInitialize ht (by simpa using hi)⟩
  by_cases hw : IsReadWord w
  · exact ⟨_, acceptWord_readBeforeInitialize ht hw (by simpa [hw] using hr)⟩
  · exact ⟨_, acceptWord_reserved ht h0 hw⟩

/-! A whole command (log 4). -/

/-- An idle block accepts the presented word and goes on. -/
theorem carryOut_idle {w : Byte} {rest : State → Result} {s : State} (h : s.seq = S_IDLE) :
    carryOut w rest s = andThen (acceptWord w (s.setPort (some w))) rest := by
  simp [carryOut, h, execAccept_enabled (s := s.setPort (some w)) h rfl]

/-- A busy block leaves the word at the port (R139). -/
theorem carryOut_busy {w : Byte} {rest : State → Result} {s : State} (h : s.seq ≠ S_IDLE) :
    carryOut w rest s = .next (s.setPort (some w)) := by
  simp [carryOut, h]

/-- A command whose word is refused is refused as a whole (R16). -/
theorem carryOut_refused {w : Byte} {rest : State → Result} {s : State} {why : Refusal}
    (h : s.seq = S_IDLE) (hr : acceptWord w (s.setPort (some w)) = .refused why) :
    carryOut w rest s = .refused why := by
  rw [carryOut_idle h, hr, andThen_refused]

@[simp] theorem State.setPort_en (s : State) (p : Option Byte) : (s.setPort p).en = s.en := rfl

/-! The state a step begins from: only the schedule, the draw counter and the response may differ. -/

@[simp] theorem State.beginStep_cfg (s : State) : s.beginStep.cfg = s.cfg := by simp [State.beginStep]
@[simp] theorem State.beginStep_ctlstat (s : State) : s.beginStep.ctlstat = s.ctlstat := by
  simp [State.beginStep]
@[simp] theorem State.beginStep_seq (s : State) : s.beginStep.seq = s.seq := by simp [State.beginStep]
@[simp] theorem State.beginStep_sig (s : State) : s.beginStep.sig = s.sig := by simp [State.beginStep]
@[simp] theorem State.beginStep_cmdPort (s : State) : s.beginStep.cmdPort = s.cmdPort := by
  simp [State.beginStep]
@[simp] theorem State.beginStep_en (s : State) : s.beginStep.en = s.en := by simp [State.en]
@[simp] theorem State.beginStep_start (s : State) : s.beginStep.start = s.start := by simp [State.start]
@[simp] theorem State.afterRaw_inFlight (s : State) : s.afterRaw.inFlight = s.inFlight := by
  simp [State.inFlight, State.en, State.start]

/-! The step of each turn, from a state without a reserved value. -/

theorem step_eq_runTurn {s : State} (h : reservedValue s = none) :
    step s = runTurn s.nextTurn s.beginStep := by
  simp [step, stepOnce, h]

theorem step_host {s : State} (h : reservedValue s = none) (ht : s.nextTurn = .host) :
    step s = .next (hostPresents s.beginStep) := by rw [step_eq_runTurn h, ht]; rfl

theorem step_seq {s : State} (h : reservedValue s = none) (ht : s.nextTurn = .seq) :
    step s = seqTurn s.beginStep := by rw [step_eq_runTurn h, ht]; rfl

theorem step_conv {s : State} (h : reservedValue s = none) (ht : s.nextTurn = .conv) :
    step s = convTurn s.beginStep := by rw [step_eq_runTurn h, ht]; rfl

theorem step_notify {s : State} (h : reservedValue s = none) (ht : s.nextTurn = .notify) :
    step s = notifyTurn s.beginStep := by rw [step_eq_runTurn h, ht]; rfl

theorem step_command {s : State} (h : reservedValue s = none) (ht : s.nextTurn = .command) :
    step s = commandTurn s.beginStep := by rw [step_eq_runTurn h, ht]; rfl

theorem step_rst {s : State} (h : reservedValue s = none) (ht : s.nextTurn = .rst) :
    step s = .next (resetInRun s.beginStep) := by rw [step_eq_runTurn h, ht]; rfl

/-! What a turn does with the form it decodes (R80, R13). -/

theorem runCode_instr {c : Code} {i : Instr} (s held : State) (h : decode c = .instr i) :
    runCode c s held = exec i s := by simp [runCode, h]

theorem runCode_rejected {c : Code} {why : Rejection} (s held : State) (h : decode c = .rejected why) :
    runCode c s held = .next held := by simp [runCode, h]

theorem seqTurn_some {s : State} {c : Code} (h : fetchSeq s = some c) : seqTurn s = runCode c s s := by
  simp [seqTurn, h]

theorem seqTurn_none {s : State} (h : fetchSeq s = none) : seqTurn s = .next s := by simp [seqTurn, h]

theorem commandTurn_instr {s : State} {w : Byte} {i : Instr} (hp : (hostPresents s).cmdPort = some w)
    (hd : decode (.cmd w) = .instr i) : commandTurn s = exec i (hostPresents s) := by
  simp [commandTurn, hp, hd]

theorem commandTurn_rejected {s : State} {w : Byte} {why : Rejection}
    (hp : (hostPresents s).cmdPort = some w) (hd : decode (.cmd w) = .rejected why) :
    commandTurn s = exec (.accept w) (hostPresents s) := by
  simp [commandTurn, hp, hd]

/-- A host that leaves the port free had nothing to present. -/
theorem hostPresents_of_port_free {s : State} (h : (hostPresents s).cmdPort = none) : hostPresents s = s := by
  revert h
  unfold hostPresents
  split
  · intro h; exact absurd h (by simp)
  · intro _; rfl

theorem commandTurn_none {s : State} (hp : (hostPresents s).cmdPort = none) :
    commandTurn s = .next s := by
  have hs := hostPresents_of_port_free hp
  rw [hs] at hp
  simp [commandTurn, hs, hp]

/-! The transition table of SEQ (R142), row by row. -/

/-- The outcome is a next state, with SEQ at `q`. -/
def GoesTo (r : Result) (q : BitVec 3) : Prop := ∃ t, r = .next t ∧ t.seq = q

theorem GoesTo.of_next {r : Result} {t : State} {q : BitVec 3} (hr : r = .next t) (hq : t.seq = q) :
    GoesTo r q := ⟨t, hr, hq⟩

section
variable {s : State}

theorem seqTurn_noWord_goesTo (hq : s.seq = S_IDLE) (hp : s.cmdPort = none) :
    GoesTo (seqTurn s) S_IDLE := .of_next (seqTurn_idle hq hp) hq

theorem seqTurn_acceptWord {w : Byte} (hq : s.seq = S_IDLE) (hp : s.cmdPort = some w) :
    seqTurn s = acceptWord w s := (seqTurn_accept hq hp).trans (execAccept_enabled hq hp)

theorem seqTurn_init_goesTo (hq : s.seq = S_IDLE) (hp : s.cmdPort = some 0x00#8)
    (ht : s.cfg.trig = .disabled) (he : s.en = false) : GoesTo (seqTurn s) S_INIT_MUX :=
  .of_next ((seqTurn_acceptWord hq hp).trans (acceptWord_init ht he)) rfl

theorem seqTurn_read_goesTo {w : Byte} (hq : s.seq = S_IDLE) (hp : s.cmdPort = some w)
    (ht : s.cfg.trig = .disabled) (hr : IsReadWord w) (he : s.en = true) : GoesTo (seqTurn s) S_SELECT :=
  .of_next ((seqTurn_acceptWord hq hp).trans (acceptWord_read ht hr he)) rfl

theorem seqTurn_initmux_goesTo (hq : s.seq = S_INIT_MUX) : GoesTo (seqTurn s) S_INIT_CTL :=
  .of_next ((seqTurn_init_mux hq).trans (execInitmux_enabled hq)) rfl

theorem seqTurn_initctl_goesTo (hq : s.seq = S_INIT_CTL) : GoesTo (seqTurn s) S_IDLE :=
  .of_next ((seqTurn_init_ctl hq).trans (execInitctl_enabled hq)) rfl

theorem seqTurn_selch_goesTo (hq : s.seq = S_SELECT) : GoesTo (seqTurn s) S_TRIGGER :=
  .of_next ((seqTurn_select hq).trans (execSelch_enabled hq)) rfl

theorem seqTurn_trig_goesTo (hq : s.seq = S_TRIGGER) : GoesTo (seqTurn s) S_WAIT :=
  .of_next ((seqTurn_trigger hq).trans (execTrig_enabled hq)) rfl

theorem seqTurn_pollAgain_goesTo (hq : s.seq = S_WAIT) (hm : s.cfg.mode = .polled) (hs : s.start = true) :
    GoesTo (seqTurn s) S_WAIT :=
  .of_next ((seqTurn_wait_polled hq hm).trans (execWaitp_polls hq hm hs)) rfl

theorem seqTurn_pollDone_goesTo (hq : s.seq = S_WAIT) (hm : s.cfg.mode = .polled) (hs : s.start = false) :
    GoesTo (seqTurn s) S_READY :=
  .of_next ((seqTurn_wait_polled hq hm).trans (execWaitp_leaves hq hm hs)) rfl

theorem seqTurn_unsignalled_goesTo (hq : s.seq = S_WAIT) (hm : s.cfg.mode = .interrupt)
    (hs : s.sig = false) : GoesTo (seqTurn s) S_WAIT :=
  .of_next ((seqTurn_wait_interrupt hq hm).trans (execWaiti_unsignalled hs)) hq

theorem seqTurn_signalled_goesTo (hq : s.seq = S_WAIT) (hm : s.cfg.mode = .interrupt)
    (hs : s.sig = true) : GoesTo (seqTurn s) S_READY :=
  .of_next ((seqTurn_wait_interrupt hq hm).trans (execWaiti_enabled hq hm hs)) rfl

theorem seqTurn_ret_goesTo (hq : s.seq = S_READY) : GoesTo (seqTurn s) S_IDLE :=
  .of_next ((seqTurn_ready hq).trans (execRet_enabled hq)) rfl

end

/-- CONV_DONE or its hold leaves SEQ alone (R142). -/
theorem convTurn_keeps_seq (s : State) : GoesTo (convTurn s) s.seq := by
  cases h : s.inFlight with
  | true =>
    have hr := execConvDone_enabled (raw := s.nextRaw) ((State.afterRaw_inFlight s).trans h)
    exact .of_next ((convTurn_enabled h).trans hr) (by simp)
  | false => exact .of_next (convTurn_disabled h) rfl

@[simp] theorem takeCompletionInterrupt_seq (s : State) : (takeCompletionInterrupt s).seq = s.seq := by
  simp [takeCompletionInterrupt]

/-- NOTIFY or its hold leaves SEQ alone (R142). -/
theorem notifyTurn_keeps_seq (s : State) : GoesTo (notifyTurn s) s.seq := by
  rw [notifyTurn_eq]
  by_cases h : s.irqPending = true
  · exact .of_next (execNotify_enabled h) (takeCompletionInterrupt_seq s)
  · exact .of_next (execNotify_held h) rfl

end Sys2Proof.Machine
end

section
/-! PROOFS. The statements of the scope family. -/

namespace Sys2Proof.Machine

/-- Settles O7: an injective map finds each register at its own address, and finds none elsewhere. -/
theorem registerSpaceReadsAndWrites : Obligations.RegisterSpaceReadsAndWrites := by
  intro regAddr hok s
  refine ⟨fun r => memRead_regAddr hok r s, fun r v => ?_, fun a v ha => ?_⟩
  · refine ⟨s.writeReg r v, memWrite_regAddr hok r v s, ?_, fun q hq => ?_, s.writeReg_frame r v⟩
    · rw [memRead_regAddr hok, State.writeReg_reg]
    · rw [memRead_regAddr hok, memRead_regAddr hok, State.writeReg_reg_other s r q v hq]
  · exact ⟨memRead_unmapped ha s, memWrite_unmapped ha v s⟩

/-- Settles O18: WAITI is enabled by the signal, and holds without it. -/
theorem waitiConsumesTheSignal : Obligations.WaitiConsumesTheSignal := fun _ hq hm =>
  ⟨execWaiti_enabled hq hm, execWaiti_unsignalled⟩

/-- Settles O25: in S_IDLE a command is refused as ACCEPT refuses its word, and a busy block only holds the
word at its port. -/
theorem commandsOutsideTheirPreconditions : Obligations.CommandsOutsideTheirPreconditions := by
  intro s ch
  refine ⟨fun hq ht => ⟨?_, ?_⟩, fun hq ht => ⟨fun he => ?_, fun hc => ?_, fun hc he => ?_⟩,
    fun hq => ⟨carryOut_busy hq, carryOut_busy hq⟩⟩
  · exact carryOut_refused hq (acceptWord_autoTrigger _ ht)
  · exact carryOut_refused hq (acceptWord_autoTrigger _ ht)
  · exact carryOut_refused hq (acceptWord_reInitialize ht he)
  · exact carryOut_refused hq
      (acceptWord_reserved ht (readWord_ne_zero ch) (not_isReadWord_readWord hc))
  · exact carryOut_refused hq (acceptWord_readBeforeInitialize ht (isReadWord_readWord hc) he)

/-- Settles O26: the held case of every micro-operation and event, the guards of the events read as masks. -/
theorem stepsNotEnabledChangeNothing : Obligations.StepsNotEnabledChangeNothing := fun s _ _ =>
  ⟨execAccept_held, execSelch_held, execTrig_held, execWaitp_held, execWaiti_held, execRet_held,
    execInitmux_held, execInitctl_held,
    fun h => execConvDone_held (mt s.inFlight_iff.1 h),
    fun h => execNotify_held (mt s.irqPending_iff.1 h)⟩

/-- Settles O35: each row is the SEQ turn of the state the step begins from, where everything the row's
condition reads is as it was. -/
theorem sequencerFollowsTheTransitionTable : Obligations.SequencerFollowsTheTransitionTable := by
  intro s hs
  constructor
  · intro ht
    rw [step_seq hs ht, ← s.beginStep_seq, ← s.beginStep_cmdPort, ← s.beginStep_cfg, ← s.beginStep_en,
      ← s.beginStep_start, ← s.beginStep_sig]
    generalize s.beginStep = b
    refine ⟨seqTurn_noWord_goesTo, fun hq w hp => ⟨?_, ?_, ?_⟩, seqTurn_initmux_goesTo,
      seqTurn_initctl_goesTo, seqTurn_selch_goesTo, seqTurn_trig_goesTo, seqTurn_pollAgain_goesTo,
      seqTurn_pollDone_goesTo, seqTurn_unsignalled_goesTo, seqTurn_signalled_goesTo, seqTurn_ret_goesTo⟩
    · rintro htrig ⟨rfl, he⟩
      exact seqTurn_init_goesTo hq hp htrig he
    · rintro htrig ⟨hlo, hhi, he⟩
      exact seqTurn_read_goesTo hq hp htrig ⟨hlo, hhi⟩ he
    · intro h
      rw [seqTurn_acceptWord hq hp]
      exact acceptWord_refused (by simpa [IsReadWord, and_assoc] using h)
  · rintro (ht | ht | ht)
    · rw [step_conv hs ht, ← s.beginStep_seq]
      exact convTurn_keeps_seq s.beginStep
    · rw [step_notify hs ht, ← s.beginStep_seq]
      exact notifyTurn_keeps_seq s.beginStep
    · exact ⟨_, step_host hs ht, by simp⟩

/-- Settles O30: one case per turn, each the agent's turn run on the form it decodes. -/
theorem stepRunsTheDecodedInstruction : Obligations.StepRunsTheDecodedInstruction := by
  intro s hs b
  refine ⟨fun ht => ?seq, fun ht => ?conv, fun ht => ?notify, fun ht => ?command, step_host hs, step_rst hs⟩
  case seq =>
    rw [step_seq hs ht]
    exact ⟨fun c i hf hd => (seqTurn_some hf).trans (runCode_instr b b hd), seqTurn_none⟩
  case conv =>
    rw [step_conv hs ht]
    exact ⟨fun i => runCode_instr b.afterRaw b, fun why => runCode_rejected b.afterRaw b⟩
  case notify =>
    rw [step_notify hs ht]
    exact ⟨fun i => runCode_instr b b, fun why => runCode_rejected b b⟩
  case command =>
    rw [step_command hs ht]
    exact ⟨fun w i => commandTurn_instr, fun w why => commandTurn_rejected, commandTurn_none⟩

end Sys2Proof.Machine
end

section
/-! PROOFS. Laws of the register writes that the statements on the state need: the frame of a write, and what
each write of CTLSTAT and MUXCTL leaves in the fields. -/

namespace Sys2Proof.Machine

/-! The frame of a register write: every other register and field is as before (R38, R62, R63). -/

section
variable (s : State)

@[simp] theorem State.writeReg_cfg (r : Reg) (v : Byte) : (s.writeReg r v).cfg = s.cfg := by
  simp [State.writeReg]
@[simp] theorem State.writeReg_ir (r : Reg) (v : Byte) : (s.writeReg r v).ir = s.ir := by
  simp [State.writeReg]
@[simp] theorem State.writeReg_sig (r : Reg) (v : Byte) : (s.writeReg r v).sig = s.sig := by
  simp [State.writeReg]
@[simp] theorem State.writeReg_rsp (r : Reg) (v : Byte) : (s.writeReg r v).rsp = s.rsp := by
  simp [State.writeReg]

/-- A write of another register than MUXCTL keeps MUXCTL. -/
theorem State.writeReg_muxctl_other {r : Reg} (v : Byte) (h : .muxctl ≠ r) :
    (s.writeReg r v).muxctl = s.muxctl := s.writeReg_reg_other r .muxctl v h

/-- A write of another register than CTLSTAT keeps CTLSTAT. -/
theorem State.writeReg_ctlstat_other {r : Reg} (v : Byte) (h : .ctlstat ≠ r) :
    (s.writeReg r v).ctlstat = s.ctlstat := s.writeReg_reg_other r .ctlstat v h

@[simp] theorem State.writeFields_cfg (r : Reg) (fs : List (Field × Byte)) :
    (s.writeFields r fs).cfg = s.cfg := s.writeReg_cfg r _
@[simp] theorem State.writeFields_ir (r : Reg) (fs : List (Field × Byte)) :
    (s.writeFields r fs).ir = s.ir := s.writeReg_ir r _
@[simp] theorem State.writeFields_sig (r : Reg) (fs : List (Field × Byte)) :
    (s.writeFields r fs).sig = s.sig := s.writeReg_sig r _
@[simp] theorem State.writeFields_rsp (r : Reg) (fs : List (Field × Byte)) :
    (s.writeFields r fs).rsp = s.rsp := s.writeReg_rsp r _
@[simp] theorem State.writeFields_history (r : Reg) (fs : List (Field × Byte)) :
    (s.writeFields r fs).history = s.history ++ [.regWr r (s.reg r) (putFields fs (s.reg r))] :=
  s.writeReg_history r _
@[simp] theorem State.writeFields_muxctl_muxctl (fs : List (Field × Byte)) :
    (s.writeFields .muxctl fs).muxctl = putFields fs s.muxctl := rfl
@[simp] theorem State.writeFields_muxctl_ctlstat (fs : List (Field × Byte)) :
    (s.writeFields .muxctl fs).ctlstat = s.ctlstat := rfl
@[simp] theorem State.writeFields_ctlstat_muxctl (fs : List (Field × Byte)) :
    (s.writeFields .ctlstat fs).muxctl = s.muxctl := rfl
@[simp] theorem State.writeFields_ctlstat_ctlstat (fs : List (Field × Byte)) :
    (s.writeFields .ctlstat fs).ctlstat = putFields fs s.ctlstat := rfl

end

/-! What the writes of one register leave in each field (R63). -/

/-- A field of the register that none of the writes names reads as before (R63). -/
theorem fieldGet_putFields_other {g : Field} {fs : List (Field × Byte)}
    (h : ∀ p ∈ fs, fieldReg p.1 = fieldReg g ∧ p.1 ≠ g) (b : Byte) :
    fieldGet g (putFields fs b) = fieldGet g b := by
  induction fs generalizing b with
  | nil => rfl
  | cons p rest ih =>
    obtain ⟨hp, hrest⟩ := List.forall_mem_cons.1 h
    rw [putFields, ih hrest, fieldGet_fieldPut_other _ _ _ _ hp.1 hp.2]

/-- A field whose write is followed by writes of other fields reads as written (R63). -/
theorem fieldGet_putFields_head {f : Field} {v : Byte} {rest : List (Field × Byte)}
    (hv : v.toNat < 2 ^ fieldWidth f) (h : ∀ p ∈ rest, fieldReg p.1 = fieldReg f ∧ p.1 ≠ f) (b : Byte) :
    fieldGet f (putFields ((f, v) :: rest) b) = v := by
  rw [putFields, fieldGet_putFields_other h, fieldGet_fieldPut f v b hv]

theorem fieldBit_putFields_other {g : Field} {fs : List (Field × Byte)}
    (h : ∀ p ∈ fs, fieldReg p.1 = fieldReg g ∧ p.1 ≠ g) (b : Byte) :
    fieldBit g (putFields fs b) = fieldBit g b := by
  rw [fieldBit, fieldGet_putFields_other h, fieldBit]

theorem fieldBit_putFields_head {f : Field} {v : Byte} {rest : List (Field × Byte)}
    (hv : v.toNat < 2 ^ fieldWidth f) (h : ∀ p ∈ rest, fieldReg p.1 = fieldReg f ∧ p.1 ≠ f) (b : Byte) :
    fieldBit f (putFields ((f, v) :: rest) b) = decide (v = 1#8) := by
  rw [fieldBit, fieldGet_putFields_head hv h]

/-- TRIG's write of CTLSTAT: START set, DONE cleared (R161). -/
theorem trigWrite_bits (b : Byte) :
    let c := putFields [(.start, 1#8), (.done, 0#8)] b
    fieldBit .start c = true ∧ fieldBit .done c = false :=
  ⟨fieldBit_putFields_head (by decide) (by decide) b,
   fieldBit_putFields_head (rest := []) (by decide) (by decide) (fieldPut .start 1#8 b)⟩

/-- CONV_DONE's write of CTLSTAT: START cleared, DONE set (R167). -/
theorem convDoneWrite_bits (b : Byte) :
    let c := putFields [(.start, 0#8), (.done, 1#8)] b
    fieldBit .start c = false ∧ fieldBit .done c = true :=
  ⟨fieldBit_putFields_head (by decide) (by decide) b,
   fieldBit_putFields_head (rest := []) (by decide) (by decide) (fieldPut .start 0#8 b)⟩

/-- NOTIFY's write of CTLSTAT: DONE cleared, START as before (R169). -/
theorem notifyWrite_bits (b : Byte) :
    let c := putFields [(.done, 0#8)] b
    fieldBit .start c = fieldBit .start b ∧ fieldBit .done c = false :=
  ⟨fieldBit_putFields_other (by decide) b, fieldBit_putFields_head (by decide) (by decide) b⟩

/-- A write of START and DONE keeps every other field of CTLSTAT (R161, R167, R169). -/
theorem statusWrite_keeps {fs : List (Field × Byte)} (h : ∀ p ∈ fs, p.1 = .start ∨ p.1 = .done) {g : Field}
    (hr : fieldReg g = .ctlstat) (hs : g ≠ .start) (hd : g ≠ .done) (b : Byte) :
    fieldGet g (putFields fs b) = fieldGet g b := by
  refine fieldGet_putFields_other (fun p hp => ?_) b
  rcases h p hp with hp | hp <;> rw [hp, hr]
  · exact ⟨rfl, hs.symm⟩
  · exact ⟨rfl, hd.symm⟩

/-- Each resolved code fits its field (R118). -/
theorem prescCode_fits (p : Presc) : ((prescCode p).setWidth 8).toNat < 2 ^ fieldWidth .presc := by
  cases p <;> decide

theorem ienCode_fits (m : Mode) : ((ienCode m).setWidth 8).toNat < 2 ^ fieldWidth .ien := by
  cases m <;> decide

theorem refCode_fits (r : Ref) : ((refCode r).setWidth 8).toNat < 2 ^ fieldWidth .refs := by
  cases r <;> decide

theorem justCode_fits (j : Just) : ((justCode j).setWidth 8).toNat < 2 ^ fieldWidth .just := by
  cases j <;> decide

/-- INITCTL keeps the status bits but EN and IEN (R134). -/
theorem ctlInit_keeps (c : Cfg) (b : Byte) :
    let d := putFields (ctlInit c) b
    fieldBit .start d = fieldBit .start b ∧ fieldBit .done d = fieldBit .done b ∧
    fieldBit .aten d = fieldBit .aten b := by
  refine ⟨?_, ?_, ?_⟩ <;> exact fieldBit_putFields_other (by simp [ctlInit, fieldReg]) b

/-- INITCTL sets EN, and leaves the resolved codes in IEN and PRESC (R134). -/
theorem ctlInit_writes (c : Cfg) (b : Byte) :
    let d := putFields (ctlInit c) b
    fieldBit .en d = true ∧ (fieldBit .ien d = true ↔ c.mode = .interrupt) ∧
    (fieldGet .presc d).setWidth 3 = prescCode c.presc := by
  refine ⟨?_, ?_, ?_⟩
  · exact fieldBit_putFields_head (f := .en) (rest := []) (by decide) (by decide) _
  · have hien : fieldBit .ien (putFields (ctlInit c) b) = decide ((ienCode c.mode).setWidth 8 = 1#8) :=
      fieldBit_putFields_head (f := .ien) (rest := [(.en, 1#8)]) (ienCode_fits c.mode) (by decide) _
    rw [hien]
    cases c.mode <;> decide
  · have hpresc : fieldGet .presc (putFields (ctlInit c) b) = (prescCode c.presc).setWidth 8 :=
      fieldGet_putFields_head (prescCode_fits c.presc) (by simp [fieldReg]) b
    rw [hpresc, BitVec.setWidth_setWidth_of_le _ (by decide), BitVec.setWidth_eq]

/-- INITMUX leaves the resolved codes in REFS and JUST, and the channel as before (R133). -/
theorem muxInit_writes (c : Cfg) (b : Byte) :
    let d := putFields (muxInit c) b
    (fieldGet .refs d).setWidth 2 = refCode c.ref ∧ (fieldGet .just d).setWidth 1 = justCode c.just ∧
    fieldGet .chsel d = fieldGet .chsel b := by
  refine ⟨?_, ?_, fieldGet_putFields_other (by simp [muxInit, fieldReg]) b⟩
  · have hrefs : fieldGet .refs (putFields (muxInit c) b) = (refCode c.ref).setWidth 8 :=
      fieldGet_putFields_head (refCode_fits c.ref) (by simp [fieldReg]) b
    rw [hrefs, BitVec.setWidth_setWidth_of_le _ (by decide), BitVec.setWidth_eq]
  · have hjust : fieldGet .just (putFields (muxInit c) b) = (justCode c.just).setWidth 8 :=
      fieldGet_putFields_head (rest := []) (justCode_fits c.just) (by decide) _
    rw [hjust, BitVec.setWidth_setWidth_of_le _ (by decide), BitVec.setWidth_eq]

/-- SELCH leaves the channel of IR, and the other fields as before (R150). -/
theorem selch_writes (ch : BitVec 5) (b : Byte) :
    let d := putFields [(.chsel, ch.setWidth 8)] b
    fieldGet .refs d = fieldGet .refs b ∧ fieldGet .just d = fieldGet .just b ∧
    (fieldGet .chsel d).setWidth 5 = ch := by
  refine ⟨fieldGet_putFields_other (by simp [fieldReg]) b, fieldGet_putFields_other (by simp [fieldReg]) b, ?_⟩
  have hfits : (ch.setWidth 8).toNat < 2 ^ fieldWidth .chsel := by
    simpa [fieldWidth] using Nat.lt_of_le_of_lt (Nat.mod_le _ _) ch.isLt
  have hchsel : fieldGet .chsel (putFields [(.chsel, ch.setWidth 8)] b) = ch.setWidth 8 :=
    fieldGet_putFields_head hfits (by decide) b
  rw [hchsel, BitVec.setWidth_setWidth_of_le _ (by decide), BitVec.setWidth_eq]

/-- A write of CHSEL keeps the bits of REFS and JUST (R152). -/
theorem chselWrite_keeps_high_bits (v b : Byte) :
    putFields [(.chsel, v)] b &&& 0xE0#8 = b &&& 0xE0#8 := by
  ext i hi
  have hmask : (0xE0#8)[i] = decide (5 ≤ i) := by revert i; decide
  have hput : (fieldPut .chsel v b)[i] = if i < 5 then v.getLsbD i else b[i] := by
    simpa [fieldLo, fieldWidth] using fieldPut_getElem .chsel v b i hi
  rw [putFields_cons, putFields_nil, BitVec.getElem_and, BitVec.getElem_and, hmask, hput]
  by_cases h : i < 5
  · simp [Nat.not_le.2 h]
  · rw [if_neg h]

end Sys2Proof.Machine
end

section
/-! PROOFS. What a step can do, said once: it is a run of moves, each one agent's atomic action or a change of
the host's and the model's own data, perhaps with RET as its last action; or it is a reset. -/

namespace Sys2Proof.Machine

/-- The state RET leaves (R182). -/
def State.returned (s : State) : State := ((s.setRsp (some s.sample)).emit (.ret s.sample)).setSeq S_IDLE

/-- The state CONV_DONE leaves (R167). -/
def State.delivered (s : State) (raw : Sample) : State :=
  (((s.emit (.convDone raw)).writeReg .dataHi (latch s.justBit raw).1).writeReg .dataLo
    (latch s.justBit raw).2).writeFields .ctlstat [(.start, 0#8), (.done, 1#8)]

section
variable (s : State) (raw : Sample)

@[simp] theorem State.delivered_cfg : (s.delivered raw).cfg = s.cfg := by simp [State.delivered]
@[simp] theorem State.delivered_muxctl : (s.delivered raw).muxctl = s.muxctl := by
  simp [State.delivered, State.writeReg_muxctl_other]
@[simp] theorem State.delivered_ctlstat :
    (s.delivered raw).ctlstat = putFields [(.start, 0#8), (.done, 1#8)] s.ctlstat := by
  simp [State.delivered, State.writeReg_ctlstat_other]
@[simp] theorem State.delivered_seq : (s.delivered raw).seq = s.seq := by simp [State.delivered]
@[simp] theorem State.delivered_ir : (s.delivered raw).ir = s.ir := by simp [State.delivered]
@[simp] theorem State.delivered_sig : (s.delivered raw).sig = s.sig := by simp [State.delivered]
@[simp] theorem State.delivered_rsp : (s.delivered raw).rsp = s.rsp := by simp [State.delivered]

@[simp] theorem takeCompletionInterrupt_muxctl : (takeCompletionInterrupt s).muxctl = s.muxctl := rfl
@[simp] theorem takeCompletionInterrupt_ir : (takeCompletionInterrupt s).ir = s.ir := rfl
@[simp] theorem takeCompletionInterrupt_rsp : (takeCompletionInterrupt s).rsp = s.rsp := rfl

end

/-- One atomic action from `s`, of any agent, that is neither RET nor reset: what enables it and the state it
leaves. `outside` changes the host's port and list and the model's own lists and counter. -/
inductive Move (s : State) : State → Prop
  | outside (port : Option Byte) (cmds : List Byte) (turns : List Turn) (answers : List Sample)
      (drawn : Nat) :
      Move s { s with cmdPort := port, cmds := cmds, turns := turns, answers := answers, drawn := drawn }
  | acceptInit {w : Byte} : s.seq = S_IDLE → decodeCommand w = .instr .init → s.en = false →
      Move s (s.take w S_INIT_MUX)
  | acceptRead {w : Byte} {c : BitVec 5} : s.seq = S_IDLE → decodeCommand w = .instr (.read c) →
      s.en = true → Move s (s.take w S_SELECT)
  | initmux : s.seq = S_INIT_MUX → Move s ((s.writeFields .muxctl (muxInit s.cfg)).setSeq S_INIT_CTL)
  | initctl : s.seq = S_INIT_CTL →
      Move s (((s.writeFields .ctlstat (ctlInit s.cfg)).emit .initDone).setSeq S_IDLE)
  | selch : s.seq = S_SELECT →
      Move s ((s.writeFields .muxctl [(.chsel, s.irChannel)]).setSeq S_TRIGGER)
  | trig : s.seq = S_TRIGGER →
      Move s ((((s.writeFields .ctlstat [(.start, 1#8), (.done, 0#8)]).setSig false).emit
        (.convStart s.chsel s.refs)).setSeq S_WAIT)
  | leavePoll : s.seq = S_WAIT → s.cfg.mode = .polled → s.start = false → Move s (s.setSeq S_READY)
  | leaveSignalled : s.seq = S_WAIT → s.cfg.mode = .interrupt → s.sig = true →
      Move s ((s.setSig false).setSeq S_READY)
  | convDone (raw : Sample) : s.inFlight = true → Move s (s.delivered raw)
  | notify : s.irqPending = true → Move s (takeCompletionInterrupt s)

/-- Any number of moves, one after another. -/
abbrev Moves : State → State → Prop := Relation.ReflTransGen Move

/-- What every move keeps, a run of moves keeps. -/
theorem Moves.keep {P : State → Prop} (hP : ∀ {a b}, Move a b → P a → P b) {s t : State} (h : Moves s t)
    (hs : P s) : P t := by
  induction h with
  | refl => exact hs
  | tail _ hm ih => exact hP hm ih

/-- Moves, perhaps with RET as the last action. -/
def Acts (s t : State) : Prop := Moves s t ∨ ∃ m, Moves s m ∧ m.seq = S_READY ∧ t = m.returned

theorem Moves.acts {s t : State} (h : Moves s t) : Acts s t := .inl h

theorem Moves.trans_acts {s m t : State} (h : Moves s m) : Acts m t → Acts s t
  | .inl ht => .inl (h.trans ht)
  | .inr ⟨r, hr, hq, ht⟩ => .inr ⟨r, h.trans hr, hq, ht⟩

/-! The host's and the model's own data. -/

theorem hostPresents_moves (s : State) : Moves s (hostPresents s) := by
  unfold hostPresents
  split
  · exact .single (.outside ..)
  · exact .refl

theorem State.setPort_moves (s : State) (p : Option Byte) : Moves s (s.setPort p) :=
  .single (.outside (s := s) p s.cmds s.turns s.answers s.drawn)

theorem State.afterRaw_moves (s : State) : Moves s s.afterRaw := by
  unfold State.afterRaw
  split <;> exact .single (.outside ..)

/-! Each micro-operation and event but RET. -/

section
variable {s t : State}

theorem acceptWord_moves {w : Byte} (hq : s.seq = S_IDLE) (h : acceptWord w s = .next t) : Moves s t := by
  obtain ⟨-, ⟨hd, he, rfl⟩ | ⟨c, hd, he, rfl⟩⟩ := acceptWord_cases h
  · exact .single (.acceptInit hq hd he)
  · exact .single (.acceptRead hq hd he)

theorem execAccept_moves {w : Byte} (h : execAccept w s = .next t) : Moves s t := by
  rcases execAccept_cases h with ⟨hq, -, ha⟩ | ⟨-, rfl⟩
  · exact acceptWord_moves hq ha
  · exact .refl

theorem execInitmux_moves (h : execInitmux s = .next t) : Moves s t := by
  rcases execInitmux_cases h with ⟨hq, rfl⟩ | ⟨-, rfl⟩
  · exact .single (.initmux hq)
  · exact .refl

theorem execInitctl_moves (h : execInitctl s = .next t) : Moves s t := by
  rcases execInitctl_cases h with ⟨hq, rfl⟩ | ⟨-, rfl⟩
  · exact .single (.initctl hq)
  · exact .refl

theorem execSelch_moves (h : execSelch s = .next t) : Moves s t := by
  rcases execSelch_cases h with ⟨hq, rfl⟩ | ⟨-, rfl⟩
  · exact .single (.selch hq)
  · exact .refl

theorem execTrig_moves (h : execTrig s = .next t) : Moves s t := by
  rcases execTrig_cases h with ⟨hq, rfl⟩ | ⟨-, rfl⟩
  · exact .single (.trig hq)
  · exact .refl

theorem State.setSeq_self {q : BitVec 3} (hq : s.seq = q) : s.setSeq q = s := by
  rw [State.setSeq, ← hq]

theorem execWaitp_moves (h : execWaitp s = .next t) : Moves s t := by
  rcases execWaitp_cases h with ⟨hq, hm, hs, rfl⟩ | ⟨hq, -, -, rfl⟩ | ⟨-, rfl⟩
  · exact .single (.leavePoll hq hm hs)
  · rw [State.setSeq_self hq]
  · exact .refl

theorem execWaiti_moves (h : execWaiti s = .next t) : Moves s t := by
  rcases execWaiti_cases h with ⟨hq, hm, hs, rfl⟩ | ⟨-, rfl⟩
  · exact .single (.leaveSignalled hq hm hs)
  · exact .refl

theorem execConvDone_moves {raw : Sample} (h : execConvDone raw s = .next t) : Moves s t := by
  rcases execConvDone_cases h with ⟨hf, rfl⟩ | ⟨-, rfl⟩
  · exact .single (.convDone raw hf)
  · exact .refl

theorem execNotify_moves (h : execNotify s = .next t) : Moves s t := by
  rcases execNotify_cases h with ⟨hp, rfl⟩ | ⟨-, rfl⟩
  · exact .single (.notify hp)
  · exact .refl

theorem execRet_acts (h : execRet s = .next t) : Acts s t := by
  rcases execRet_cases h with ⟨hq, rfl⟩ | ⟨-, rfl⟩
  · exact .inr ⟨s, .refl, hq, rfl⟩
  · exact Moves.acts .refl

/-! The whole commands (R132, R135). -/

theorem converterAnswers_moves (h : converterAnswers s = .next t) : Moves s t :=
  s.afterRaw_moves.trans (execConvDone_moves h)

theorem finishWait_moves (h : finishWait s = .next t) : Moves s t := by
  unfold finishWait at h
  split at h
  · exact execWaitp_moves h
  · obtain ⟨m, hn, hw⟩ := andThen_eq_next h
    exact (execNotify_moves hn).trans (execWaiti_moves hw)

theorem carryOut_acts {w : Byte} {rest : State → Result} (hrest : ∀ {a b}, rest a = .next b → Acts a b)
    (h : carryOut w rest s = .next t) : Acts s t := by
  rcases carryOut_cases h with ⟨-, rfl⟩ | ⟨hq, m, ha, hr⟩
  · exact (s.setPort_moves _).acts
  · exact (s.setPort_moves (some w)).trans_acts (Moves.trans_acts (acceptWord_moves hq ha) (hrest hr))

theorem execInit_acts (h : execInit s = .next t) : Acts s t := by
  refine carryOut_acts (fun {a b} hr => ?_) h
  obtain ⟨m, hx, hc⟩ := andThen_eq_next hr
  exact (execInitmux_moves hx).trans_acts (execInitctl_moves hc).acts

theorem execRead_acts {c : BitVec 5} (h : execRead c s = .next t) : Acts s t := by
  refine carryOut_acts (fun {a b} hr => ?_) h
  obtain ⟨m₁, hsel, hr⟩ := andThen_eq_next hr
  obtain ⟨m₂, htrig, hr⟩ := andThen_eq_next hr
  obtain ⟨m₃, hconv, hr⟩ := andThen_eq_next hr
  obtain ⟨m₄, hwait, hret⟩ := andThen_eq_next hr
  exact (execSelch_moves hsel).trans_acts <| (execTrig_moves htrig).trans_acts <|
    (converterAnswers_moves hconv).trans_acts <| (finishWait_moves hwait).trans_acts <| execRet_acts hret

/-! The turns (R13). -/

/-- Outside S_READY the SEQ agent's turn returns nothing: it is a run of moves. -/
theorem seqTurn_moves (hq : s.seq ≠ S_READY) (h : seqTurn s = .next t) : Moves s t := by
  rcases seqTurn_cases h with ⟨-, -, rfl⟩ | ⟨w, -, -, h⟩ | ⟨-, h⟩ | ⟨-, h⟩ | ⟨-, -, h⟩ | ⟨-, -, h⟩ | ⟨hr, -⟩ |
    ⟨-, h⟩ | ⟨-, h⟩ | ⟨-, rfl⟩
  · exact .refl
  · exact execAccept_moves h
  · exact execSelch_moves h
  · exact execTrig_moves h
  · exact execWaitp_moves h
  · exact execWaiti_moves h
  · exact absurd hr hq
  · exact execInitmux_moves h
  · exact execInitctl_moves h
  · exact .refl

theorem seqTurn_acts (h : seqTurn s = .next t) : Acts s t := by
  by_cases hq : s.seq = S_READY
  · rw [seqTurn_ready hq] at h
    exact execRet_acts h
  · exact (seqTurn_moves hq h).acts

theorem convTurn_moves (h : convTurn s = .next t) : Moves s t := by
  rcases convTurn_cases h with ⟨-, h⟩ | ⟨-, rfl⟩
  · exact converterAnswers_moves h
  · exact .refl

theorem notifyTurn_moves (h : notifyTurn s = .next t) : Moves s t := by
  rw [notifyTurn_eq] at h
  exact execNotify_moves h

theorem commandTurn_acts (h : commandTurn s = .next t) : Acts s t := by
  refine (hostPresents_moves s).trans_acts ?_
  rcases commandTurn_cases h with ⟨-, rfl⟩ | ⟨w, -, ⟨-, h⟩ | ⟨c, -, h⟩ | ⟨-, h⟩⟩
  · exact Moves.acts .refl
  · exact execInit_acts h
  · exact execRead_acts h
  · exact (execAccept_moves h).acts

theorem runTurn_acts {turn : Turn} (hr : turn ≠ .rst) (h : runTurn turn s = .next t) : Acts s t := by
  cases turn with
  | host =>
    cases h
    exact (hostPresents_moves s).acts
  | seq => exact seqTurn_acts h
  | conv => exact (convTurn_moves h).acts
  | notify => exact (notifyTurn_moves h).acts
  | command => exact commandTurn_acts h
  | rst => exact absurd rfl hr

/-- Every step is a reset, or a run of moves from the state it begins from, perhaps with RET as its last
action. -/
theorem step_acts (h : step s = .next t) :
    (s.nextTurn = .rst ∧ t = resetInRun s.beginStep) ∨ (s.nextTurn ≠ .rst ∧ Acts s.beginStep t) := by
  have hrun := (step_cases h).2
  by_cases hr : s.nextTurn = .rst
  · rw [hr] at hrun
    cases hrun
    exact .inl ⟨hr, rfl⟩
  · exact .inr ⟨hr, runTurn_acts hr hrun⟩

/-- What every move and RET keep, every step but reset keeps, if it holds where the step begins. -/
theorem Acts.keep {P : State → Prop} (hm : ∀ {a b}, Move a b → P a → P b)
    (hr : ∀ {a}, a.seq = S_READY → P a → P a.returned) (h : Acts s t) (hs : P s) : P t := by
  rcases h with h | ⟨m, h, hq, rfl⟩
  · exact h.keep hm hs
  · exact hr hq (h.keep hm hs)

end

end Sys2Proof.Machine
end

section
/-! PROOFS. The invariant of reachable states (R45) as three phases of the block: disabled, at rest and waiting;
and the phase each move leads from and to. -/

namespace Sys2Proof.Machine

/-! The phases. -/

/-- Before INIT has finished (R137, R221): nothing is in flight, complete or signalled. -/
structure Disabled (s : State) : Prop where
  aten : s.aten = false
  channel : s.chsel.toNat ≤ 7
  refs : s.refs ≠ 0b10#2
  en : s.en = false
  start : s.start = false
  done : s.done = false
  ien : s.ien = false
  sig : s.sig = false
  seq : s.seq = S_IDLE ∨ s.seq = S_INIT_MUX ∨ (s.seq = S_INIT_CTL ∧ MuxResolved s)

/-- After INIT: enabled, with the resolved codes in the registers (R45 (1), (2), (7)). -/
structure Initialised (s : State) : Prop where
  aten : s.aten = false
  channel : s.chsel.toNat ≤ 7
  en : s.en = true
  mux : MuxResolved s
  ctl : CtlResolved s

/-- After INIT and outside S_WAIT: nothing is in flight or signalled, and in interrupt mode nothing is
unacknowledged (R45 (3), (4), R201). -/
structure AtRest (s : State) : Prop where
  initialised : Initialised s
  start : s.start = false
  sig : s.sig = false
  acknowledged : s.cfg.mode = .interrupt → s.done = false
  seq : s.seq = S_IDLE ∨ (s.seq = S_SELECT ∧ s.ir &&& 0xF8#8 = 0x20#8) ∨ s.seq = S_TRIGGER ∨ s.seq = S_READY

/-- The conversion is requested and not complete. -/
def State.converting (s : State) : Prop := s.start = true ∧ s.done = false ∧ s.sig = false

/-- The conversion is complete and not acknowledged. -/
def State.completed (s : State) : Prop := s.start = false ∧ s.done = true ∧ s.sig = false

/-- The completion has been acknowledged and signalled, as only an interrupt-driven block does. -/
def State.signalled (s : State) : Prop :=
  s.cfg.mode = .interrupt ∧ s.start = false ∧ s.done = false ∧ s.sig = true

/-- In S_WAIT the conversion is in exactly one of three stages (R170, R171). -/
structure Waiting (s : State) : Prop where
  initialised : Initialised s
  seq : s.seq = S_WAIT
  stage : s.converting ∨ s.completed ∨ s.signalled

/-- No resolved reference code is the reserved one (R87). -/
theorem refCode_ne_reserved (r : Ref) : refCode r ≠ 0b10#2 := by cases r <;> decide

theorem Initialised.refs {s : State} (h : Initialised s) : s.refs ≠ 0b10#2 :=
  h.mux.1 ▸ refCode_ne_reserved s.cfg.ref

section
variable {s : State}

theorem Inv.initialised (h : Inv s) (he : s.en = true) : Initialised s :=
  ⟨h.atenClear, h.channelLegal, he, (h.resolved he).1, (h.resolved he).2⟩

/-- Outside S_WAIT nothing is in flight (R45 (3)). -/
theorem Inv.start_false (h : Inv s) (hq : s.seq ≠ S_WAIT) : s.start = false :=
  Bool.eq_false_iff.2 (mt h.startOnlyInWait hq)

/-- Outside S_WAIT nothing is signalled (R45 (4)). -/
theorem Inv.sig_false (h : Inv s) (hq : s.seq ≠ S_WAIT) : s.sig = false :=
  Bool.eq_false_iff.2 fun hs => hq (h.sigOnlyInWait hs).1

/-- A disabled block is idle or in INIT (R136, R137). -/
theorem Inv.seq_of_disabled (h : Inv s) (he : s.en = false) :
    s.seq = S_IDLE ∨ s.seq = S_INIT_MUX ∨ s.seq = S_INIT_CTL := by
  have hread : ¬ (s.seq = S_SELECT ∨ s.seq = S_TRIGGER ∨ s.seq = S_WAIT ∨ s.seq = S_READY) :=
    fun hq => absurd (h.readWhileEnabled hq) (by simp [he])
  have hlegal := h.seqLegal
  rcases seq_values s.seq with q | q | q | q | q | q | q | q <;> simp_all

/-- An enabled block is idle or in a READ (R136, R137). -/
theorem Inv.seq_of_enabled (h : Inv s) (he : s.en = true) :
    s.seq = S_IDLE ∨ s.seq = S_SELECT ∨ s.seq = S_TRIGGER ∨ s.seq = S_WAIT ∨ s.seq = S_READY := by
  have hinit : ¬ (s.seq = S_INIT_MUX ∨ s.seq = S_INIT_CTL) :=
    fun hq => absurd (h.initWhileDisabled hq) (by simp [he])
  have hlegal := h.seqLegal
  rcases seq_values s.seq with q | q | q | q | q | q | q | q <;> simp_all

theorem Inv.disabled (h : Inv s) (he : s.en = false) : Disabled s := by
  obtain ⟨hstart, hdone, hien⟩ := h.quietUntilInit he
  have hq := h.seq_of_disabled he
  have hw : s.seq ≠ S_WAIT := by rcases hq with q | q | q <;> rw [q] <;> decide
  exact ⟨h.atenClear, h.channelLegal, h.refsLegal, he, hstart, hdone, hien, h.sig_false hw,
    hq.imp_right (Or.imp_right fun q => ⟨q, h.muxBeforeCtl q⟩)⟩

theorem Inv.atRest (h : Inv s) (he : s.en = true) (hq : s.seq ≠ S_WAIT) : AtRest s where
  initialised := h.initialised he
  start := h.start_false hq
  sig := h.sig_false hq
  acknowledged hm := Bool.eq_false_iff.2 (mt (h.doneOnlyInWait hm) hq)
  seq := by
    rcases h.seq_of_enabled he with q | q | q | q | q
    · exact .inl q
    · exact .inr (.inl ⟨q, h.irIsRead q⟩)
    · exact .inr (.inr (.inl q))
    · exact absurd q hq
    · exact .inr (.inr (.inr q))

theorem Inv.waiting (h : Inv s) (hq : s.seq = S_WAIT) : Waiting s where
  initialised := h.initialised (h.readWhileEnabled (.inr (.inr (.inl hq))))
  seq := hq
  stage := by
    have happart := h.startDoneApart
    have hsignal := h.signalLast
    have hmode := h.sigOnlyInWait
    cases hm : s.cfg.mode with
    | polled =>
      have hdone := h.pollAgrees hm hq
      grind [State.converting, State.completed]
    | interrupt =>
      have hprogress := h.waitProgress hm hq
      grind [State.converting, State.completed, State.signalled]

/-! Back from a phase to the invariant: in each stage or at each SEQ value of the phase, a clause of `Inv` is one
of the phase's fields, or has a premise that the phase excludes. -/

theorem Disabled.inv (h : Disabled s) : Inv s := by
  obtain ⟨haten, hchannel, hrefs, hen, hstart, hdone, hien, hsig, hseq⟩ := h
  rcases hseq with q | q | ⟨q, hmux⟩ <;>
    constructor <;> simp_all [S_IDLE, S_SELECT, S_TRIGGER, S_WAIT, S_READY, S_INIT_MUX, S_INIT_CTL]

theorem AtRest.inv (h : AtRest s) : Inv s := by
  have hrefs := h.initialised.refs
  obtain ⟨⟨haten, hchannel, hen, hmux, hctl⟩, hstart, hsig, hack, hseq⟩ := h
  rcases hseq with q | ⟨q, hir⟩ | q | q <;>
    constructor <;> simp_all [S_IDLE, S_SELECT, S_TRIGGER, S_WAIT, S_READY, S_INIT_MUX, S_INIT_CTL]

theorem Waiting.inv (h : Waiting s) : Inv s := by
  have hrefs := h.initialised.refs
  obtain ⟨⟨haten, hchannel, hen, hmux, hctl⟩, hseq, hstage⟩ := h
  rcases hstage with ⟨hstart, hdone, hsig⟩ | ⟨hstart, hdone, hsig⟩ | ⟨hmode, hstart, hdone, hsig⟩ <;>
    constructor <;> simp_all [S_SELECT, S_TRIGGER, S_WAIT, S_READY, S_INIT_MUX, S_INIT_CTL]

end

/-! What each move does to the phase. -/

section
variable {s t : State}

/-- The invariant reads the configuration, MUXCTL, CTLSTAT, SEQ, IR and SIG alone. -/
theorem Inv.congr (h : Inv s) (hc : t.cfg = s.cfg) (hm : t.muxctl = s.muxctl) (hctl : t.ctlstat = s.ctlstat)
    (hq : t.seq = s.seq) (hir : t.ir = s.ir) (hsig : t.sig = s.sig) : Inv t := by
  cases t
  subst hc hm hctl hq hir hsig
  exact ⟨h.1, h.2, h.3, h.4, h.5, h.6, h.7, h.8, h.9, h.10, h.11, h.12, h.13, h.14, h.15, h.16, h.17⟩

theorem Inv.beginStep (h : Inv s) : Inv s.beginStep := by
  apply h.congr <;> simp [State.beginStep]

/-- A write of START and DONE keeps the other fields of CTLSTAT (R161, R167, R169). -/
theorem State.statusWrite_fields {fs : List (Field × Byte)} (hfs : ∀ p ∈ fs, p.1 = .start ∨ p.1 = .done)
    (h : t.ctlstat = putFields fs s.ctlstat) :
    t.aten = s.aten ∧ t.en = s.en ∧ t.ien = s.ien ∧ t.presc = s.presc := by
  refine ⟨?_, ?_, ?_, ?_⟩ <;>
    simp only [State.aten, State.en, State.ien, State.presc, fieldBit, h] <;>
    rw [statusWrite_keeps hfs rfl (by decide) (by decide)]

/-- A write of START and DONE leaves the block initialised. -/
theorem Initialised.statusWrite {fs : List (Field × Byte)} (h : Initialised s)
    (hfs : ∀ p ∈ fs, p.1 = .start ∨ p.1 = .done) (hc : t.cfg = s.cfg) (hm : t.muxctl = s.muxctl)
    (hctl : t.ctlstat = putFields fs s.ctlstat) : Initialised t := by
  obtain ⟨haten, hen, hien, hpresc⟩ := State.statusWrite_fields hfs hctl
  obtain ⟨hlegal, hchannel, hon, ⟨hrefs, hjust⟩, hdiv, hmode⟩ := h
  refine ⟨haten.trans hlegal, ?_, hen.trans hon, ⟨?_, ?_⟩, ?_, ?_⟩
  · rwa [State.chsel, hm]
  · rwa [State.refs, hm, hc]
  · rwa [State.justBit, hm, hc]
  · rwa [hpresc, hc]
  · rwa [hien, hc]

/-- Whether a block is initialised is read from the configuration, MUXCTL and CTLSTAT alone. -/
theorem Initialised.congr (h : Initialised s) (hc : t.cfg = s.cfg) (hm : t.muxctl = s.muxctl)
    (hctl : t.ctlstat = s.ctlstat) : Initialised t :=
  h.statusWrite (fs := []) (by simp) hc hm hctl

/-! Reset. -/

/-- A register of zeros has every field 0. -/
theorem fieldGet_zero (f : Field) : fieldGet f 0x00#8 = 0#8 := by cases f <;> decide

theorem fieldBit_zero (f : Field) : fieldBit f 0x00#8 = false := by cases f <;> decide

theorem resetOf_refs (cfg : Cfg) : (State.resetOf cfg).refs = 0b00#2 :=
  congrArg (BitVec.setWidth 2) (fieldGet_zero .refs)

theorem resetOf_chsel (cfg : Cfg) : (State.resetOf cfg).chsel = 0#5 :=
  congrArg (BitVec.setWidth 5) (fieldGet_zero .chsel)

/-! INIT. -/

theorem Disabled.acceptInit (h : Disabled s) (w : Byte) : Disabled (s.take w S_INIT_MUX) :=
  ⟨h.aten, h.channel, h.refs, h.en, h.start, h.done, h.ien, h.sig, .inr (.inl rfl)⟩

theorem Disabled.initmux (h : Disabled s) :
    Disabled ((s.writeFields .muxctl (muxInit s.cfg)).setSeq S_INIT_CTL) := by
  obtain ⟨hrefs, hjust, hchsel⟩ := muxInit_writes s.cfg s.muxctl
  refine ⟨h.aten, ?_, ?_, h.en, h.start, h.done, h.ien, h.sig, .inr (.inr ⟨rfl, hrefs, hjust⟩)⟩
  · simpa [State.chsel, hchsel] using h.channel
  · exact ne_of_eq_of_ne hrefs (refCode_ne_reserved s.cfg.ref)

theorem Disabled.initctl (h : Disabled s) (hmux : MuxResolved s) :
    AtRest (((s.writeFields .ctlstat (ctlInit s.cfg)).emit .initDone).setSeq S_IDLE) := by
  obtain ⟨hen, hien, hpresc⟩ := ctlInit_writes s.cfg s.ctlstat
  obtain ⟨hstart, hdone, haten⟩ := ctlInit_keeps s.cfg s.ctlstat
  exact ⟨⟨haten.trans h.aten, h.channel, hen, hmux, hpresc, hien⟩, hstart.trans h.start, h.sig,
    fun _ => hdone.trans h.done, .inl rfl⟩

/-! READ outside the wait. -/

/-- An accepted READ word has its channel in 0 to 7 (R45 (6), R83). -/
theorem decodeCommand_read_ir {w : Byte} {c : BitVec 5} (h : decodeCommand w = .instr (.read c)) :
    w &&& 0xF8#8 = 0x20#8 := by
  rcases decodeCommand_cases w with hd | ⟨d, hd, hle, rfl⟩ | ⟨why, hd⟩
  · exact absurd (hd.symm.trans h) (by simp)
  · clear h hd; revert d; decide
  · exact absurd (hd.symm.trans h) (by simp)

/-- ... and SELCH takes that channel from it (R150). -/
theorem cmdArg_le_of_read {w : Byte} (h : w &&& 0xF8#8 = 0x20#8) : (cmdArg w).toNat ≤ 7 := by
  revert w; decide

theorem AtRest.acceptRead (h : AtRest s) {w : Byte} (hw : w &&& 0xF8#8 = 0x20#8) :
    AtRest (s.take w S_SELECT) :=
  ⟨h.initialised.congr rfl rfl rfl, h.start, h.sig, h.acknowledged, .inr (.inl ⟨rfl, hw⟩)⟩

theorem AtRest.selch (h : AtRest s) (hir : s.ir &&& 0xF8#8 = 0x20#8) :
    AtRest ((s.writeFields .muxctl [(.chsel, s.irChannel)]).setSeq S_TRIGGER) := by
  obtain ⟨haten, -, hen, ⟨hrefs, hjust⟩, hctl⟩ := h.initialised
  obtain ⟨hkeepRefs, hkeepJust, hchsel⟩ := selch_writes (cmdArg s.ir) s.muxctl
  refine ⟨⟨haten, ?_, hen, ⟨?_, ?_⟩, hctl⟩, h.start, h.sig, h.acknowledged, .inr (.inr (.inl rfl))⟩
  · have hch : ((s.writeFields .muxctl [(.chsel, s.irChannel)]).setSeq S_TRIGGER).chsel = cmdArg s.ir := hchsel
    rw [hch]
    exact cmdArg_le_of_read hir
  · exact (congrArg (BitVec.setWidth 2) hkeepRefs).trans hrefs
  · exact (congrArg (BitVec.setWidth 1) hkeepJust).trans hjust

theorem AtRest.returned (h : AtRest s) : AtRest s.returned :=
  ⟨h.initialised.congr rfl rfl rfl, h.start, h.sig, h.acknowledged, .inl rfl⟩

/-! The wait. -/

theorem AtRest.trig (h : AtRest s) :
    Waiting ((((s.writeFields .ctlstat [(.start, 1#8), (.done, 0#8)]).setSig false).emit
      (.convStart s.chsel s.refs)).setSeq S_WAIT) := by
  obtain ⟨hstart, hdone⟩ := trigWrite_bits s.ctlstat
  exact ⟨h.initialised.statusWrite (fs := [(.start, 1#8), (.done, 0#8)]) (by decide) rfl rfl rfl, rfl,
    .inl ⟨hstart, hdone, rfl⟩⟩

theorem Waiting.convDone (h : Waiting s) (hs : s.start = true) (raw : Sample) : Waiting (s.delivered raw) := by
  have hsig : s.sig = false := Bool.eq_false_iff.2 fun hg => by simp [h.inv.signalLast hg] at hs
  have hstart : (s.delivered raw).start = false := by
    rw [State.start, State.delivered_ctlstat, (convDoneWrite_bits s.ctlstat).1]
  have hdone : (s.delivered raw).done = true := by
    rw [State.done, State.delivered_ctlstat, (convDoneWrite_bits s.ctlstat).2]
  have hinit : Initialised (s.delivered raw) :=
    h.initialised.statusWrite (fs := [(.start, 0#8), (.done, 1#8)]) (by decide) (s.delivered_cfg raw)
      (s.delivered_muxctl raw) (s.delivered_ctlstat raw)
  exact ⟨hinit, (s.delivered_seq raw).trans h.seq, .inr (.inl ⟨hstart, hdone, (s.delivered_sig raw).trans hsig⟩)⟩

theorem Waiting.notify (h : Waiting s) (hp : s.irqPending = true) : Waiting (takeCompletionInterrupt s) := by
  obtain ⟨hd, hi⟩ := Bool.and_eq_true_iff.1 hp
  have hs : s.start = false := Bool.eq_false_iff.2 fun hs => h.inv.startDoneApart ⟨hs, hd⟩
  obtain ⟨hstart, hdone⟩ := notifyWrite_bits s.ctlstat
  exact ⟨h.initialised.statusWrite (fs := [(.done, 0#8)]) (by decide) rfl rfl rfl, h.seq,
    .inr (.inr ⟨h.initialised.ctl.2.1 hi, hstart.trans hs, hdone, rfl⟩)⟩

theorem Waiting.leavePoll (h : Waiting s) (hm : s.cfg.mode = .polled) (hs : s.start = false) :
    AtRest (s.setSeq S_READY) := by
  have hsig : s.sig = false := Bool.eq_false_iff.2 fun hg => by simp [h.inv.sigOnlyInWait hg] at hm
  exact ⟨h.initialised.congr rfl rfl rfl, hs, hsig, fun hi => absurd (hm.symm.trans hi) (by decide),
    .inr (.inr (.inr rfl))⟩

theorem Waiting.leaveSignalled (h : Waiting s) (hg : s.sig = true) :
    AtRest ((s.setSig false).setSeq S_READY) := by
  obtain ⟨hs, hd⟩ := h.inv.signalLast hg
  exact ⟨h.initialised.congr rfl rfl rfl, hs, rfl, fun _ => hd, .inr (.inr (.inr rfl))⟩

/-! The invariant along a step. -/

/-- Only a block in S_WAIT has a conversion in flight (R45 (3)). -/
theorem Inv.waiting_of_start (h : Inv s) (hs : s.start = true) : Waiting s :=
  h.waiting (h.startOnlyInWait hs)

/-- An interrupt is pending only in S_WAIT (R198, R201). -/
theorem Inv.waiting_of_irqPending (h : Inv s) (hp : s.irqPending = true) : Waiting s := by
  obtain ⟨hd, hi⟩ := Bool.and_eq_true_iff.1 hp
  have hen : s.en = true := by
    by_contra he
    simp [h.quietUntilInit (Bool.eq_false_iff.2 he)] at hd
  exact h.waiting (h.doneOnlyInWait ((h.resolved hen).2.2.1 hi) hd)

/-- A block at rest or disabled, by the SEQ value of a READ or of INIT. -/
theorem Inv.atRest_of_seq (h : Inv s) (hq : s.seq = S_SELECT ∨ s.seq = S_TRIGGER ∨ s.seq = S_READY) :
    AtRest s := by
  refine h.atRest (h.readWhileEnabled ?_) ?_
  · tauto
  · rcases hq with q | q | q <;> rw [q] <;> decide

theorem Move.keeps_inv (hmove : Move s t) (h : Inv s) : Inv t := by
  cases hmove with
  | outside => exact h.congr rfl rfl rfl rfl rfl rfl
  | acceptInit hq hd he => exact ((h.disabled he).acceptInit _).inv
  | acceptRead hq hd he =>
    exact ((h.atRest he (by rw [hq]; decide)).acceptRead (decodeCommand_read_ir hd)).inv
  | initmux hq => exact (h.disabled (h.initWhileDisabled (.inl hq))).initmux.inv
  | initctl hq => exact ((h.disabled (h.initWhileDisabled (.inr hq))).initctl (h.muxBeforeCtl hq)).inv
  | selch hq => exact ((h.atRest_of_seq (.inl hq)).selch (h.irIsRead hq)).inv
  | trig hq => exact (h.atRest_of_seq (.inr (.inl hq))).trig.inv
  | leavePoll hq hm hs => exact ((h.waiting hq).leavePoll hm hs).inv
  | leaveSignalled hq _ hs => exact ((h.waiting hq).leaveSignalled hs).inv
  | convDone raw hf =>
    have hs := (Bool.and_eq_true_iff.1 hf).2
    exact ((h.waiting_of_start hs).convDone hs raw).inv
  | notify hp => exact ((h.waiting_of_irqPending hp).notify hp).inv

/-- The reset state is disabled (R44). -/
theorem resetOf_disabled (cfg : Cfg) : Disabled (State.resetOf cfg) where
  aten := fieldBit_zero .aten
  channel := by rw [resetOf_chsel]; decide
  refs := by rw [resetOf_refs]; decide
  en := fieldBit_zero .en
  start := fieldBit_zero .start
  done := fieldBit_zero .done
  ien := fieldBit_zero .ien
  sig := rfl
  seq := .inl rfl

theorem resetInRun_inv (s : State) : Inv (resetInRun s) :=
  (resetOf_disabled s.cfg).inv.congr rfl rfl rfl rfl rfl rfl

theorem step_keeps_inv (h : Inv s) (hstep : step s = .next t) : Inv t := by
  rcases step_acts hstep with ⟨-, rfl⟩ | ⟨-, hacts⟩
  · exact resetInRun_inv _
  · exact hacts.keep Move.keeps_inv (fun hq ha => (ha.atRest_of_seq (.inr (.inr hq))).returned.inv)
      h.beginStep

end

end Sys2Proof.Machine
end

section
/-! PROOFS. What the steps do to single pieces of the state: the history, the response, the status bits EN, ATEN
and START, and the bits of REFS and JUST. -/

namespace Sys2Proof.Machine

section
variable {s t : State}

/-! The history and the response (R38, R41). -/

theorem Move.history_extends (h : Move s t) : s.history <+: t.history := by
  cases h with
  | outside => exact List.prefix_rfl
  | acceptInit => exact List.prefix_append ..
  | acceptRead => exact List.prefix_append ..
  | initmux => simp
  | initctl => simp
  | selch => simp
  | trig => simp
  | leavePoll => exact List.prefix_rfl
  | leaveSignalled => exact List.prefix_rfl
  | convDone => simp [State.delivered]
  | notify => simp [takeCompletionInterrupt]

theorem Move.rsp_eq (h : Move s t) : t.rsp = s.rsp := by
  cases h with
  | initmux => simp
  | initctl => simp
  | selch => simp
  | trig => simp
  | convDone => simp
  | notify => simp
  | _ => rfl

theorem Moves.history_extends (h : Moves s t) : s.history <+: t.history :=
  Moves.keep (P := fun a => s.history <+: a.history) (fun hm hp => hp.trans hm.history_extends) h
    List.prefix_rfl

theorem Moves.rsp_eq (h : Moves s t) : t.rsp = s.rsp :=
  Moves.keep (P := fun a => a.rsp = s.rsp) (fun hm hp => hm.rsp_eq.trans hp) h rfl

theorem State.returned_history (s : State) : s.returned.history = s.history ++ [.ret s.sample] := rfl

@[simp] theorem State.beginStep_rsp (s : State) : s.beginStep.rsp = none := rfl
@[simp] theorem State.beginStep_history (s : State) : s.beginStep.history = s.history := by
  simp [State.beginStep]
@[simp] theorem State.beginStep_muxctl (s : State) : s.beginStep.muxctl = s.muxctl := by
  simp [State.beginStep]
@[simp] theorem State.beginStep_ir (s : State) : s.beginStep.ir = s.ir := by simp [State.beginStep]
@[simp] theorem State.beginStep_cmds (s : State) : s.beginStep.cmds = s.cmds := by simp [State.beginStep]
@[simp] theorem State.beginStep_aten (s : State) : s.beginStep.aten = s.aten := by simp [State.aten]

theorem State.beginStep_sample (s : State) : s.beginStep.sample = s.sample := by
  simp [State.sample, State.resultHalves, State.beginStep]

/-! The frame of CONV, NOTIFY and HOST: SEQ, IR, MUXCTL and the response (R142). -/

/-- SEQ, IR, MUXCTL and the response are the same in both states. -/
def SameSequencer (s t : State) : Prop :=
  t.seq = s.seq ∧ t.ir = s.ir ∧ t.muxctl = s.muxctl ∧ t.rsp = s.rsp

theorem convTurn_frame (h : convTurn s = .next t) : SameSequencer s t := by
  rcases convTurn_cases h with ⟨-, h⟩ | ⟨-, rfl⟩
  · rcases execConvDone_cases h with ⟨-, ht⟩ | ⟨-, rfl⟩
    · rw [show t = s.afterRaw.delivered s.nextRaw from ht]
      exact ⟨by simp, by simp, by simp, by simp⟩
    · exact ⟨by simp, by simp, by simp, by simp⟩
  · exact ⟨rfl, rfl, rfl, rfl⟩

theorem notifyTurn_frame (h : notifyTurn s = .next t) : SameSequencer s t := by
  rw [notifyTurn_eq] at h
  rcases execNotify_cases h with ⟨-, rfl⟩ | ⟨-, rfl⟩
  · exact ⟨by simp, by simp, by simp, by simp⟩
  · exact ⟨rfl, rfl, rfl, rfl⟩

theorem hostPresents_frame (s : State) : SameSequencer s (hostPresents s) :=
  ⟨by simp, by simp, by simp, by simp⟩

/-- The host presents its next word on a free port, or has no move (R40, R77). -/
theorem hostPresents_cases (s : State) :
    (∃ w rest, s.cmdPort = none ∧ s.cmds = w :: rest ∧
      hostPresents s = { s with cmdPort := some w, cmds := rest }) ∨
    ((s.cmdPort ≠ none ∨ s.cmds = []) ∧ hostPresents s = s) := by
  cases hp : s.cmdPort with
  | some w => exact .inr ⟨.inl (by simp), by simp [hostPresents, hp]⟩
  | none =>
    cases hc : s.cmds with
    | nil => exact .inr ⟨.inr rfl, by simp [hostPresents, hp, hc]⟩
    | cons w rest =>
      exact .inl ⟨w, rest, rfl, rfl, by simp [hostPresents, hp, hc, State.setCmds, State.setPort]⟩

/-! EN and ATEN (R46), and the bits of REFS and JUST (R152). -/

/-- No move lowers EN or writes ATEN. -/
theorem Move.keeps_en_aten (h : Move s t) : (s.en = true → t.en = true) ∧ t.aten = s.aten := by
  have status {fs : List (Field × Byte)} {u : State} (hfs : ∀ p ∈ fs, p.1 = .start ∨ p.1 = .done)
      (hu : u.ctlstat = putFields fs s.ctlstat) : (s.en = true → u.en = true) ∧ u.aten = s.aten := by
    obtain ⟨haten, hen, -, -⟩ := State.statusWrite_fields hfs hu
    exact ⟨fun he => hen.trans he, haten⟩
  cases h with
  | initctl => exact ⟨fun _ => (ctlInit_writes s.cfg s.ctlstat).1, (ctlInit_keeps s.cfg s.ctlstat).2.2⟩
  | trig => exact status (fs := [(.start, 1#8), (.done, 0#8)]) (by decide) rfl
  | convDone raw => exact status (fs := [(.start, 0#8), (.done, 1#8)]) (by decide) (s.delivered_ctlstat raw)
  | notify => exact status (fs := [(.done, 0#8)]) (by decide) rfl
  | _ => exact ⟨id, rfl⟩

theorem Moves.keeps_en (h : Moves s t) (he : s.en = true) : t.en = true :=
  h.keep (fun hm => hm.keeps_en_aten.1) he

/-- INIT's writes are past, and the bits of REFS and JUST are those of `mux` (R152). -/
def MuxSettled (mux : Byte) (s : State) : Prop :=
  s.en = true ∧ s.seq ≠ S_INIT_MUX ∧ s.muxctl &&& 0xE0#8 = mux

theorem Move.keeps_muxSettled {mux : Byte} (h : Move s t) : MuxSettled mux s → MuxSettled mux t := by
  rintro ⟨he, hq, hm⟩
  refine ⟨h.keeps_en_aten.1 he, ?_, ?_⟩
  · cases h with
    | outside => exact hq
    | acceptInit _ _ hoff => simp [he] at hoff
    | convDone raw => simpa using hq
    | notify => simpa using hq
    | _ => exact of_decide_eq_true rfl
  · cases h with
    | initmux hi => exact absurd hi hq
    | selch => exact (chselWrite_keeps_high_bits s.irChannel s.muxctl).trans hm
    | convDone raw => simpa using hm
    | _ => exact hm

end

end Sys2Proof.Machine
end

section
/-! PROOFS. START along a step (R32, R174): only TRIG raises it and only CONV_DONE or reset lowers it. -/

namespace Sys2Proof.Machine

section
variable {s t : State}

@[simp] theorem hostPresents_start (s : State) : (hostPresents s).start = s.start := by simp [State.start]

/-! The micro-operations and events that keep START. -/

theorem acceptWord_start {w : Byte} (h : acceptWord w s = .next t) : t.start = s.start := by
  obtain ⟨-, ⟨-, -, rfl⟩ | ⟨c, -, -, rfl⟩⟩ := acceptWord_cases h <;> rfl

theorem execAccept_start {w : Byte} (h : execAccept w s = .next t) : t.start = s.start := by
  rcases execAccept_cases h with ⟨-, -, ha⟩ | ⟨-, rfl⟩
  · exact acceptWord_start ha
  · rfl

theorem execInitmux_start (h : execInitmux s = .next t) : t.start = s.start := by
  rcases execInitmux_cases h with ⟨-, rfl⟩ | ⟨-, rfl⟩ <;> rfl

theorem execInitctl_start (h : execInitctl s = .next t) : t.start = s.start := by
  rcases execInitctl_cases h with ⟨-, rfl⟩ | ⟨-, rfl⟩
  · exact (ctlInit_keeps s.cfg s.ctlstat).1
  · rfl

theorem execSelch_start (h : execSelch s = .next t) : t.start = s.start := by
  rcases execSelch_cases h with ⟨-, rfl⟩ | ⟨-, rfl⟩ <;> rfl

theorem execWaitp_start (h : execWaitp s = .next t) : t.start = s.start := by
  rcases execWaitp_cases h with ⟨-, -, -, rfl⟩ | ⟨-, -, -, rfl⟩ | ⟨-, rfl⟩ <;> rfl

theorem execWaiti_start (h : execWaiti s = .next t) : t.start = s.start := by
  rcases execWaiti_cases h with ⟨-, -, -, rfl⟩ | ⟨-, rfl⟩ <;> rfl

theorem execRet_start (h : execRet s = .next t) : t.start = s.start := by
  rcases execRet_cases h with ⟨-, rfl⟩ | ⟨-, rfl⟩ <;> rfl

theorem execNotify_start (h : execNotify s = .next t) : t.start = s.start := by
  rcases execNotify_cases h with ⟨-, rfl⟩ | ⟨-, rfl⟩
  · exact (notifyWrite_bits s.ctlstat).1
  · rfl

theorem finishWait_start (h : finishWait s = .next t) : t.start = s.start := by
  unfold finishWait at h
  split at h
  · exact execWaitp_start h
  · obtain ⟨m, hn, hw⟩ := andThen_eq_next h
    exact (execWaiti_start hw).trans (execNotify_start hn)

/-! The turns. -/

/-- Outside S_TRIGGER the SEQ agent keeps START. -/
theorem seqTurn_start (hq : s.seq ≠ S_TRIGGER) (h : seqTurn s = .next t) : t.start = s.start := by
  rcases seqTurn_cases h with ⟨-, -, rfl⟩ | ⟨w, -, -, h⟩ | ⟨-, h⟩ | ⟨htrig, -⟩ | ⟨-, -, h⟩ | ⟨-, -, h⟩ |
    ⟨-, h⟩ | ⟨-, h⟩ | ⟨-, h⟩ | ⟨-, rfl⟩
  · rfl
  · exact execAccept_start h
  · exact execSelch_start h
  · exact absurd htrig hq
  · exact execWaitp_start h
  · exact execWaiti_start h
  · exact execRet_start h
  · exact execInitmux_start h
  · exact execInitctl_start h
  · rfl

/-- After CONV_DONE, or its hold in an enabled block, no conversion is requested (R167). -/
theorem execConvDone_start {raw : Sample} (he : s.en = true) (h : execConvDone raw s = .next t) :
    t.start = false := by
  rcases execConvDone_cases h with ⟨-, rfl⟩ | ⟨hf, rfl⟩
  · exact (congrArg (fieldBit .start) (s.delivered_ctlstat raw)).trans (convDoneWrite_bits s.ctlstat).1
  · simpa [State.inFlight, he] using hf

/-- The CONV agent keeps START, or completes the conversion in flight. -/
theorem convTurn_start (h : convTurn s = .next t) :
    t.start = s.start ∨ (s.en = true ∧ s.start = true ∧ t.start = false) := by
  rcases convTurn_cases h with ⟨hf, h⟩ | ⟨-, rfl⟩
  · obtain ⟨he, hs⟩ := Bool.and_eq_true_iff.1 hf
    exact .inr ⟨he, hs, execConvDone_start (by simpa [State.en] using he) h⟩
  · exact .inl rfl

theorem notifyTurn_start (h : notifyTurn s = .next t) : t.start = s.start := by
  rw [notifyTurn_eq] at h
  exact execNotify_start h

/-- ACCEPT takes a READ only in an enabled block (R131, R136). -/
theorem acceptWord_readWord_en {c : BitVec 5} (h : acceptWord (readWord c) s = .next t) : t.en = true := by
  obtain ⟨-, ⟨hd, -, -⟩ | ⟨d, -, he, rfl⟩⟩ := acceptWord_cases h
  · exact absurd (eq_zero_of_decodeCommand_init hd) (readWord_ne_zero c)
  · exact he

theorem execInit_start (h : execInit s = .next t) : t.start = s.start := by
  rcases carryOut_cases h with ⟨-, rfl⟩ | ⟨-, m, ha, hr⟩
  · rfl
  · obtain ⟨n, hx, hc⟩ := andThen_eq_next hr
    calc t.start = n.start := execInitctl_start hc
      _ = m.start := execInitmux_start hx
      _ = (s.setPort (some initWord)).start := acceptWord_start ha

/-- A READ carried out to its end has no conversion in flight, as before it (R135). -/
theorem execRead_start {c : BitVec 5} (hi : Inv s) (h : execRead c s = .next t) : t.start = s.start := by
  rcases carryOut_cases h with ⟨-, rfl⟩ | ⟨hq, m, ha, hr⟩
  · rfl
  · obtain ⟨m₁, hsel, hr⟩ := andThen_eq_next hr
    obtain ⟨m₂, htrig, hr⟩ := andThen_eq_next hr
    obtain ⟨m₃, hconv, hr⟩ := andThen_eq_next hr
    obtain ⟨m₄, hwait, hret⟩ := andThen_eq_next hr
    have hen : m₂.en = true :=
      Moves.keeps_en ((execSelch_moves hsel).trans (execTrig_moves htrig)) (acceptWord_readWord_en ha)
    calc t.start = m₄.start := execRet_start hret
      _ = m₃.start := finishWait_start hwait
      _ = false := execConvDone_start (Moves.keeps_en m₂.afterRaw_moves hen) hconv
      _ = s.start := (hi.start_false (by rw [hq]; decide)).symm

/-- A whole command keeps START (R132, R135). -/
theorem commandTurn_start (hi : Inv s) (h : commandTurn s = .next t) : t.start = s.start := by
  rw [← hostPresents_start s]
  rcases commandTurn_cases h with ⟨-, rfl⟩ | ⟨w, -, ⟨-, h⟩ | ⟨c, -, h⟩ | ⟨-, h⟩⟩
  · rfl
  · exact execInit_start h
  · exact execRead_start ((hostPresents_moves s).keep Move.keeps_inv hi) h
  · exact execAccept_start h

/-- The steps that write START: a SEQ turn in S_TRIGGER, the completion of a conversion, and a reset. -/
theorem step_start_cases (hi : Inv s) (h : step s = .next t) :
    t.start = s.start ∨ (s.nextTurn = .seq ∧ s.seq = S_TRIGGER) ∨
    (s.nextTurn = .conv ∧ s.en = true ∧ s.start = true ∧ t.start = false) ∨
    (s.nextTurn = .rst ∧ t.start = false) := by
  have hrun := (step_cases h).2
  rw [← s.beginStep_start, ← s.beginStep_seq, ← s.beginStep_en]
  cases ht : s.nextTurn <;> rw [ht] at hrun
  case host => cases hrun; exact .inl (hostPresents_start _)
  case seq =>
    by_cases hq : s.beginStep.seq = S_TRIGGER
    · exact .inr (.inl ⟨rfl, hq⟩)
    · exact .inl (seqTurn_start hq hrun)
  case conv => exact (convTurn_start hrun).imp_right fun hc => .inr (.inl ⟨rfl, hc⟩)
  case notify => exact .inl (notifyTurn_start hrun)
  case command => exact .inl (commandTurn_start hi.beginStep hrun)
  case rst => cases hrun; exact .inr (.inr (.inr ⟨rfl, fieldBit_zero .start⟩))

end

end Sys2Proof.Machine
end

section
/-! PROOFS. The statements of the state family. -/

namespace Sys2Proof.Machine

/-- Settles O44: a reset leaves a disabled block, and every other step is a run of moves, each of which leads
from a phase of the invariant to one. -/
theorem everyStepKeepsTheInvariant : Obligations.EveryStepKeepsTheInvariant :=
  fun _ _ => step_keeps_inv

/-- Settles O33: the step is the host's move from the state it begins from. -/
theorem hostOnlyPresentsWords : Obligations.HostOnlyPresentsWords := by
  intro s t ht h
  rw [step_host (step_cases h).1 ht] at h
  cases h
  rw [← s.beginStep_cmdPort, ← s.beginStep_cmds]
  exact hostPresents_cases s.beginStep

/-- Settles O36: the frame of each of the three turns, from a state whose response is gone. -/
theorem eventsNeverMoveTheSequencer : Obligations.EventsNeverMoveTheSequencer := by
  intro s t ht h
  have hrun := (step_cases h).2
  have hframe : SameSequencer s.beginStep t := by
    rcases ht with ht | ht | ht <;> rw [ht] at hrun
    · exact convTurn_frame hrun
    · exact notifyTurn_frame hrun
    · cases hrun
      exact hostPresents_frame _
  simpa [SameSequencer] using hframe

/-- Settles O38: reset keeps the history, and every move and RET only append to it. -/
theorem everyStepOnlyAppendsToTheHistory : Obligations.EveryStepOnlyAppendsToTheHistory := by
  intro s t h
  suffices hp : s.beginStep.history <+: t.history by
    obtain ⟨events, he⟩ := hp
    exact ⟨events, by simpa using he.symm⟩
  rcases step_acts h with ⟨-, rfl⟩ | ⟨-, hacts⟩
  · exact List.prefix_rfl
  · exact hacts.keep (P := fun a => s.beginStep.history <+: a.history)
      (fun hm hp => hp.trans hm.history_extends) (fun _ hp => hp.trans (List.prefix_append ..)) List.prefix_rfl

/-- Settles O39: no move and no RET lowers EN or writes ATEN. -/
theorem onlyResetDisablesThePeripheral : Obligations.OnlyResetDisablesThePeripheral := by
  intro s t h hr
  obtain ⟨ht, -⟩ | ⟨-, hacts⟩ := step_acts h
  · exact absurd ht hr
  · have hkeep := hacts.keep (P := fun a => (s.en = true → a.en = true) ∧ a.aten = s.aten)
      (fun hm ha => ⟨fun he => hm.keeps_en_aten.1 (ha.1 he), hm.keeps_en_aten.2.trans ha.2⟩)
      (fun _ ha => ha)
    exact hkeep ⟨fun he => s.beginStep_en.trans he, s.beginStep_aten⟩

/-- Settles O40: of the steps that write START, TRIG's finds it clear and the others leave it clear. -/
theorem startIsRaisedByTrigAndLoweredByConvDone : Obligations.StartIsRaisedByTrigAndLoweredByConvDone := by
  intro s t hi h
  rcases step_start_cases hi h with hsame | ⟨ht, hq⟩ | ⟨ht, he, hs, hn⟩ | ⟨ht, hn⟩
  · exact ⟨fun hs hn => by simp [hsame, hs] at hn, fun hs hn => by simp [hsame, hs] at hn⟩
  · have hs : s.start = false := hi.start_false (by rw [hq]; decide)
    exact ⟨fun _ _ => ⟨ht, hq⟩, fun hs' _ => by simp [hs] at hs'⟩
  · exact ⟨fun _ hn' => by simp [hn] at hn', fun _ _ => .inl ⟨ht, he⟩⟩
  · exact ⟨fun _ hn' => by simp [hn] at hn', fun _ _ => .inr ht⟩

/-- Settles O41: once INIT's writes are past, every move and RET keep the bits of REFS and JUST. -/
theorem readsKeepReferenceAndJustification : Obligations.ReadsKeepReferenceAndJustification := by
  intro s t h he hq hr
  obtain ⟨ht, -⟩ | ⟨-, hacts⟩ := step_acts h
  · exact absurd ht hr
  · have hret {a : State} (_ : a.seq = S_READY) :
        MuxSettled (s.muxctl &&& 0xE0#8) a → MuxSettled (s.muxctl &&& 0xE0#8) a.returned :=
      fun ⟨hea, _, hma⟩ => ⟨hea, (by decide : S_IDLE ≠ S_INIT_MUX), hma⟩
    obtain ⟨-, -, hm⟩ := hacts.keep Move.keeps_muxSettled hret
      ⟨s.beginStep_en.trans he, by simpa using hq, by simp⟩
    exact hm

/-- Settles O56: each port is its field, and the fields are slices of their registers. -/
theorem portsCopyTheirFields : Obligations.PortsCopyTheirFields := by
  intro s
  have bit (b : Byte) : (fieldBit .en b = true ↔ b &&& 0x80#8 ≠ 0#8) ∧
      (fieldBit .start b = true ↔ b &&& 0x40#8 ≠ 0#8) := by revert b; decide
  have slice (b : Byte) : (fieldGet .chsel b).setWidth 5 = b.setWidth 5 ∧
      (fieldGet .refs b).setWidth 2 = (b >>> 6).setWidth 2 ∧
      (fieldGet .presc b).setWidth 3 = b.setWidth 3 := by revert b; decide
  exact ⟨decide_eq_true_iff, (bit s.ctlstat).1, (bit s.ctlstat).2, s.irqPending_iff, (slice s.muxctl).1,
    (slice s.muxctl).2.1, (slice s.ctlstat).2.2⟩

/-- Settles O57: the response is gone where a step begins, no move gives one, and RET gives the sample it
appends to the history. -/
theorem responseIsValidForItsStepOnly : Obligations.ResponseIsValidForItsStepOnly := by
  intro s t h
  refine ⟨fun v hv => ?_, fun ht hq => ?_, fun ht hq => ?_⟩
  · obtain ⟨-, rfl⟩ | ⟨-, hmoves | ⟨m, hmoves, -, rfl⟩⟩ := step_acts h
    · simp [resetInRun, State.resetOf] at hv
    · simp [hmoves.rsp_eq] at hv
    · obtain rfl : m.sample = v := Option.some.inj hv
      obtain ⟨events, he⟩ := hmoves.history_extends
      exact ⟨events, by rw [m.returned_history, ← he, s.beginStep_history]⟩
  · rw [step_seq (step_cases h).1 ht, seqTurn_ready (by simpa using hq), execRet_enabled (by simpa using hq)] at h
    cases h
    exact congrArg some s.beginStep_sample
  · rw [step_seq (step_cases h).1 ht] at h
    rw [(seqTurn_moves (by simpa using hq) h).rsp_eq, s.beginStep_rsp]

/-- Settles O1: the reset table, its fields read from registers of zeros. -/
theorem resetStateIsTheResetTable : Obligations.ResetStateIsTheResetTable := by
  intro cfg
  refine ⟨rfl, rfl, rfl, rfl, rfl, rfl, rfl, rfl, rfl, rfl, fieldBit_zero .en, fieldBit_zero .start,
    fieldBit_zero .aten, fieldBit_zero .done, fieldBit_zero .ien, ?presc, resetOf_refs cfg, ?just,
    resetOf_chsel cfg, ?irq, rfl⟩
  case presc => exact congrArg (BitVec.setWidth 3) (fieldGet_zero .presc)
  case just => exact congrArg (BitVec.setWidth 1) (fieldGet_zero .just)
  case irq => exact congrArg₂ (· && ·) (fieldBit_zero .done) (fieldBit_zero .ien)

/-- Settles O43: the reset state is in the disabled phase, and in S_IDLE no result is due. -/
theorem resetMeetsTheInvariant : Obligations.ResetMeetsTheInvariant := by
  intro cfg
  have hidle : (State.resetOf cfg).seq ≠ S_WAIT ∧ (State.resetOf cfg).seq ≠ S_READY :=
    ⟨(by decide : S_IDLE ≠ S_WAIT), (by decide : S_IDLE ≠ S_READY)⟩
  refine ⟨(resetOf_disabled cfg).inv, ⟨?data, ?captured⟩⟩
  case data =>
    rintro (⟨hq, -⟩ | hq)
    · exact absurd hq hidle.1
    · exact absurd hq hidle.2
  case captured =>
    rintro - (hs | hq)
    · exact absurd hs Bool.false_ne_true
    · exact absurd hq hidle.2

end Sys2Proof.Machine
end

section
/-! PROOFS. Field puts side by side, and the checked FieldWrite (R63, R64). -/

namespace Sys2Proof.Machine

section
variable (f : Field) (v b : Byte)

/-- A bit outside the field is as before (R63). -/
theorem fieldPut_getLsbD_outside {i : Nat} (hi : i < 8) (hout : i < fieldLo f ∨ fieldLo f + fieldWidth f ≤ i) :
    (fieldPut f v b).getLsbD i = b.getLsbD i := by
  have hnot : ¬ (fieldLo f ≤ i ∧ i < fieldLo f + fieldWidth f) := by omega
  rw [BitVec.getLsbD_eq_getElem hi, BitVec.getLsbD_eq_getElem hi, fieldPut_getElem, if_neg hnot]

/-- A FieldWrite is not additive: of two to one field the second alone counts (R63). -/
theorem fieldPut_fieldPut_same (u : Byte) : fieldPut f v (fieldPut f u b) = fieldPut f v b := by
  ext i hi
  by_cases hf : fieldLo f ≤ i ∧ i < fieldLo f + fieldWidth f
  · simp [fieldPut_getElem, hf]
  · simp [fieldPut_getElem, hf]

/-- FieldWrites to two fields of one register commute, since no bit lies in both fields (R63). -/
theorem fieldPut_comm {g : Field} (hr : fieldReg f = fieldReg g) (hne : f ≠ g) (u : Byte) :
    fieldPut f v (fieldPut g u b) = fieldPut g u (fieldPut f v b) := by
  ext i hi
  have apart := fields_apart f g hr hne
  by_cases hf : fieldLo f ≤ i ∧ i < fieldLo f + fieldWidth f
  · have hg : ¬ (fieldLo g ≤ i ∧ i < fieldLo g + fieldWidth g) := by omega
    simp [fieldPut_getElem, hf, hg]
  · simp [fieldPut_getElem, hf]

end

theorem fieldWrite_fits {f : Field} {v : Nat} (h : v < 2 ^ fieldWidth f) (s : State) :
    fieldWrite f v s =
      .next (s.writeReg (fieldReg f) (fieldPut f (BitVec.ofNat 8 v) (s.reg (fieldReg f)))) := if_pos h

theorem fieldWrite_tooWide {f : Field} {v : Nat} (h : 2 ^ fieldWidth f ≤ v) (s : State) :
    fieldWrite f v s = .refused (.fieldValueTooWide f v) := if_neg (Nat.not_lt.2 h)

end Sys2Proof.Machine
end

section
/-! PROOFS. Which registers each instruction writes (R69). -/

namespace Sys2Proof.Machine

/-- From `s` to `t` the registers outside `rs` are as before. -/
def WritesOnly (rs : List Reg) (s t : State) : Prop := ∀ r ∉ rs, t.reg r = s.reg r

/-- The registers an instruction may write: the W entries of the access table (R69), and for INIT and READ those
of the steps they are made of (R132, R135). -/
def registersWritten : Instr → List Reg
  | .init => [.muxctl, .ctlstat]
  | .read _ => Reg.all
  | .accept _ | .waitp | .waiti | .ret => []
  | .selch | .initmux => [.muxctl]
  | .initctl | .trig | .notify => [.ctlstat]
  | .convDone _ => [.dataHi, .dataLo, .ctlstat]

section
variable {rs : List Reg} {s t u : State}

theorem WritesOnly.refl : WritesOnly rs s s := fun _ _ => rfl

theorem WritesOnly.trans (h : WritesOnly rs s t) (h' : WritesOnly rs t u) : WritesOnly rs s u :=
  fun r hr => (h' r hr).trans (h r hr)

theorem WritesOnly.mono {qs : List Reg} (h : WritesOnly rs s t) (hsub : rs ⊆ qs) : WritesOnly qs s t :=
  fun r hr => h r (mt (@hsub r) hr)

theorem WritesOnly.writeReg {r : Reg} (h : WritesOnly rs s t) (hr : r ∈ rs) (v : Byte) :
    WritesOnly rs s (t.writeReg r v) :=
  fun q hq => (t.writeReg_reg_other r q v (ne_of_mem_of_not_mem hr hq).symm).trans (h q hq)

theorem WritesOnly.writeFields {r : Reg} (h : WritesOnly rs s t) (hr : r ∈ rs) (fs : List (Field × Byte)) :
    WritesOnly rs s (t.writeFields r fs) := h.writeReg hr _

/-- Whoever writes only `rs` changes no address but theirs (R64, R70). -/
theorem WritesOnly.memRead_eq {regAddr : Reg → Nat} {a : Nat} (h : WritesOnly rs s t)
    (ha : ∀ r ∈ rs, regAddr r ≠ a) : memRead regAddr a t = memRead regAddr a s := by
  unfold memRead
  cases hr : regAt regAddr a with
  | none => rfl
  | some r => exact congrArg Except.ok (h r fun hm => ha r hm (regAddr_of_regAt hr))

/-! Each instruction. What it updates beside the registers does not occur in `State.reg`. -/

theorem acceptWord_writesOnly {w : Byte} (h : acceptWord w s = .next t) : WritesOnly [] s t := by
  obtain ⟨-, ⟨-, -, rfl⟩ | ⟨c, -, -, rfl⟩⟩ := acceptWord_cases h
  · exact WritesOnly.refl
  · exact WritesOnly.refl

theorem execAccept_writesOnly {w : Byte} (h : execAccept w s = .next t) : WritesOnly [] s t := by
  rcases execAccept_cases h with ⟨-, -, ha⟩ | ⟨-, rfl⟩
  · exact acceptWord_writesOnly ha
  · exact WritesOnly.refl

theorem execInitmux_writesOnly (h : execInitmux s = .next t) : WritesOnly [.muxctl] s t := by
  rcases execInitmux_cases h with ⟨-, rfl⟩ | ⟨-, rfl⟩
  · exact WritesOnly.refl.writeFields (by decide) (muxInit s.cfg)
  · exact WritesOnly.refl

theorem execInitctl_writesOnly (h : execInitctl s = .next t) : WritesOnly [.ctlstat] s t := by
  rcases execInitctl_cases h with ⟨-, rfl⟩ | ⟨-, rfl⟩
  · exact WritesOnly.refl.writeFields (by decide) (ctlInit s.cfg)
  · exact WritesOnly.refl

theorem execSelch_writesOnly (h : execSelch s = .next t) : WritesOnly [.muxctl] s t := by
  rcases execSelch_cases h with ⟨-, rfl⟩ | ⟨-, rfl⟩
  · exact WritesOnly.refl.writeFields (by decide) [(.chsel, s.irChannel)]
  · exact WritesOnly.refl

theorem execTrig_writesOnly (h : execTrig s = .next t) : WritesOnly [.ctlstat] s t := by
  rcases execTrig_cases h with ⟨-, rfl⟩ | ⟨-, rfl⟩
  · exact WritesOnly.refl.writeFields (by decide) [(.start, 1#8), (.done, 0#8)]
  · exact WritesOnly.refl

theorem execWaitp_writesOnly (h : execWaitp s = .next t) : WritesOnly [] s t := by
  rcases execWaitp_cases h with ⟨-, -, -, rfl⟩ | ⟨-, -, -, rfl⟩ | ⟨-, rfl⟩
  · exact WritesOnly.refl
  · exact WritesOnly.refl
  · exact WritesOnly.refl

theorem execWaiti_writesOnly (h : execWaiti s = .next t) : WritesOnly [] s t := by
  rcases execWaiti_cases h with ⟨-, -, -, rfl⟩ | ⟨-, rfl⟩
  · exact WritesOnly.refl
  · exact WritesOnly.refl

theorem execRet_writesOnly (h : execRet s = .next t) : WritesOnly [] s t := by
  rcases execRet_cases h with ⟨-, rfl⟩ | ⟨-, rfl⟩
  · exact WritesOnly.refl
  · exact WritesOnly.refl

theorem execConvDone_writesOnly {raw : Sample} (h : execConvDone raw s = .next t) :
    WritesOnly [.dataHi, .dataLo, .ctlstat] s t := by
  rcases execConvDone_cases h with ⟨-, rfl⟩ | ⟨-, rfl⟩
  · have hemit : WritesOnly [.dataHi, .dataLo, .ctlstat] s (s.emit (.convDone raw)) := WritesOnly.refl
    exact ((hemit.writeReg (by decide) _).writeReg (by decide) _).writeFields (by decide) _
  · exact WritesOnly.refl

theorem execNotify_writesOnly (h : execNotify s = .next t) : WritesOnly [.ctlstat] s t := by
  rcases execNotify_cases h with ⟨-, rfl⟩ | ⟨-, rfl⟩
  · have hcapture : WritesOnly [.ctlstat] s ((s.setCapt s.dataHi s.dataLo).setSig true) := WritesOnly.refl
    exact hcapture.writeFields (by decide) [(.done, 0#8)]
  · exact WritesOnly.refl

/-- INIT writes what INITMUX and INITCTL write (R132). -/
theorem execInit_writesOnly (h : execInit s = .next t) : WritesOnly [.muxctl, .ctlstat] s t := by
  rcases carryOut_cases h with ⟨-, rfl⟩ | ⟨-, m, ha, hr⟩
  · exact WritesOnly.refl
  · obtain ⟨n, hx, hc⟩ := andThen_eq_next hr
    have hport : WritesOnly [.muxctl, .ctlstat] s (s.setPort (some initWord)) := WritesOnly.refl
    exact hport.trans <| ((acceptWord_writesOnly ha).mono (by decide)).trans <|
      ((execInitmux_writesOnly hx).mono (by decide)).trans ((execInitctl_writesOnly hc).mono (by decide))

/-- Every instruction writes at most the registers the access table gives it (R69). -/
theorem exec_writesOnly {i : Instr} (h : exec i s = .next t) : WritesOnly (registersWritten i) s t := by
  cases i with
  | init => exact execInit_writesOnly h
  | read => exact fun r hr => absurd (Reg.mem_all r) hr
  | accept => exact execAccept_writesOnly h
  | selch => exact execSelch_writesOnly h
  | trig => exact execTrig_writesOnly h
  | waitp => exact execWaitp_writesOnly h
  | waiti => exact execWaiti_writesOnly h
  | ret => exact execRet_writesOnly h
  | initmux => exact execInitmux_writesOnly h
  | initctl => exact execInitctl_writesOnly h
  | convDone => exact execConvDone_writesOnly h
  | notify => exact execNotify_writesOnly h

end

end Sys2Proof.Machine
end

section
/-! PROOFS. The statements of the memory family. -/

namespace Sys2Proof.Machine

/-- Settles O5: a field put is the value inside the field and the old bits outside, and the fields of a register
have no bit in common. -/
theorem fieldWriteReplacesExactlyItsField : Obligations.FieldWriteReplacesExactlyItsField := fun f v b hv =>
  ⟨fieldGet_fieldPut f v b hv, fun _ => fieldPut_getLsbD_outside f v b, fieldPut_fieldPut_same f v b v,
    fun g u hne hr => ⟨fieldGet_fieldPut_other f g v b hr.symm hne.symm, fieldPut_comm f v b hr.symm hne.symm u⟩⟩

/-- Settles O6: a value that fits makes one register write, with that write's frame. -/
theorem fieldWriteIsBoundsChecked : Obligations.FieldWriteIsBoundsChecked := by
  intro f v s new
  refine ⟨fun hv => ?fits, fun hv => fieldWrite_tooWide hv s⟩
  case fits =>
    exact ⟨s.writeReg (fieldReg f) new, fieldWrite_fits hv s, s.writeReg_reg _ new,
      fun r hr => s.writeReg_reg_other _ r new hr, s.writeReg_frame _ new⟩

/-- Settles O27: each instruction writes only its registers of the access table, and an injective map gives
the others other addresses. -/
theorem stepsWriteOnlyTheirRegisters : Obligations.StepsWriteOnlyTheirRegisters := by
  intro regAddr s t i hok h
  have hw := exec_writesOnly h
  have hinj := injective_of_addrMapOk hok
  refine ⟨fun hi a ha => ?mux, fun hi a ha => ?ctl, fun hi a => ?none, ?convDone, ?init⟩
  case mux =>
    have hrs : ∀ j ∈ [Instr.selch, .initmux], registersWritten j = [.muxctl] := by decide
    exact hw.memRead_eq (by simpa [hrs i hi] using ha.symm)
  case ctl =>
    have hrs : ∀ j ∈ [Instr.initctl, .trig, .notify], registersWritten j = [.ctlstat] := by decide
    exact hw.memRead_eq (by simpa [hrs i hi] using ha.symm)
  case none =>
    have hrs : registersWritten i = [] := by
      rcases hi with ⟨w, rfl⟩ | hi
      · rfl
      · have hall : ∀ j ∈ [Instr.waitp, .waiti, .ret], registersWritten j = [] := by decide
        exact hall i hi
    exact hw.memRead_eq (by simp [hrs])
  case convDone =>
    rintro ⟨raw, rfl⟩
    exact hw.memRead_eq (by simp [registersWritten, hinj.eq_iff])
  case init =>
    rintro rfl
    exact ⟨hw.memRead_eq (by simp [registersWritten, hinj.eq_iff]),
      hw.memRead_eq (by simp [registersWritten, hinj.eq_iff])⟩

end Sys2Proof.Machine
end

section
/-! PROOFS. The decoder against the encoder and the tables: command words (R82, R83, R94), SEQ codes (R91, R92),
the guards of the events (R97), and the written commands (R98). -/

namespace Sys2Proof.Machine

/-! Command words. -/

theorem cmdArg_readWord (c : BitVec 5) : cmdArg (readWord c) = c := by revert c; decide

theorem decodeCommand_readWord {c : BitVec 5} (h : c.toNat ≤ 7) :
    decodeCommand (readWord c) = .instr (.read c) := by
  rw [(isReadWord_readWord h).decode, cmdArg_readWord]

theorem wellFormed_read_iff {c : BitVec 5} : (Instr.read c).wellFormed = true ↔ c.toNat ≤ 7 := by
  simp [Instr.wellFormed]

/-- Only READ has an operand of which some values are out of range (R93, R94). -/
theorem eq_read_of_not_wellFormed {i : Instr} (h : i.wellFormed = false) : ∃ c, i = .read c ∧ 7 < c.toNat := by
  cases i with
  | read c => exact ⟨c, rfl, by simpa [Instr.wellFormed] using h⟩
  | _ => cases h

theorem decode_encode {i : Instr} (h : i.wellFormed = true) : decode (encode i) = .instr i := by
  cases i with
  | read c => exact decodeCommand_readWord (wellFormed_read_iff.1 h)
  | _ => rfl

/-- A defined command word is the encoding of its command (R82, R83, R100). -/
theorem encode_of_decodeCommand {w : Byte} {i : Instr} (h : decodeCommand w = .instr i) :
    i.wellFormed = true ∧ encode i = .cmd w := by
  rcases decodeCommand_cases w with hd | ⟨c, hd, hle, rfl⟩ | ⟨why, hd⟩ <;> rw [hd] at h <;> cases h
  · exact ⟨rfl, by rw [eq_zero_of_decodeCommand_init hd]; rfl⟩
  · exact ⟨wellFormed_read_iff.2 hle, rfl⟩

/-- A channel above 7 is encoded as a reserved word (R94). -/
theorem decode_encode_of_not_wellFormed {i : Instr} (h : i.wellFormed = false) :
    ∃ why, decode (encode i) = .rejected why := by
  obtain ⟨c, rfl, hc⟩ := eq_read_of_not_wellFormed h
  exact decodeCommand_reserved (readWord_ne_zero c) (not_isReadWord_readWord hc)

/-- No command word names an event (R97, R100). -/
theorem decodeCommand_ne_convDone {w : Byte} {i : Instr} {raw : Sample} (h : decodeCommand w = .instr i) :
    i ≠ .convDone raw := by
  rintro rfl
  obtain ⟨-, he⟩ := encode_of_decodeCommand h
  cases he

/-! SEQ codes. -/

/-- The SEQ code that selects what the decoder answered, and code 7 where none does (R91, R143). -/
def selectingCode : Decoded → BitVec 3
  | .instr (.accept _) => S_IDLE
  | .instr .selch => S_SELECT
  | .instr .trig => S_TRIGGER
  | .instr .waitp | .instr .waiti => S_WAIT
  | .instr .ret => S_READY
  | .instr .initmux => S_INIT_MUX
  | .instr .initctl => S_INIT_CTL
  | _ => 7#3

section
variable {code q : BitVec 3} {m n : Mode} {w v : Byte} {d : Decoded} {i : Instr}

/-- A SEQ code can be read back from what it selects. -/
theorem selectingCode_decodeSeq : selectingCode (decodeSeq code m w) = code := by
  rcases seq_values code with rfl | rfl | rfl | hwait | rfl | rfl | rfl | rfl
  case inr.inr.inr.inl => subst hwait; cases m <;> rfl
  all_goals rfl

theorem code_of_decodeSeq (h : decodeSeq code m w = d) : code = selectingCode d := by
  rw [← h, selectingCode_decodeSeq]

/-- What one code selects under the given mode and word, no other code selects. -/
theorem decodeSeq_eq_iff (h : decodeSeq q m w = d) : decodeSeq code m w = d ↔ code = q := by
  constructor
  · intro hd
    exact (code_of_decodeSeq hd).trans (code_of_decodeSeq h).symm
  · rintro rfl
    exact h

/-- In S_WAIT the mode, too, can be read back (R92). -/
theorem decodeSeq_wait_injective (h : decodeSeq S_WAIT m w = decodeSeq S_WAIT n w) : m = n := by
  cases m <;> cases n <;> simp at h ⊢

theorem decodeSeq_wait_iff (h : decodeSeq S_WAIT n w = d) (hd : selectingCode d = S_WAIT) :
    decodeSeq code m w = d ↔ code = S_WAIT ∧ m = n := by
  constructor
  · intro hc
    obtain rfl : code = S_WAIT := (code_of_decodeSeq hc).trans hd
    exact ⟨rfl, decodeSeq_wait_injective (hc.trans h.symm)⟩
  · rintro ⟨rfl, rfl⟩
    exact h

/-- The mode decides only in S_WAIT (R92). -/
theorem decodeSeq_mode (h : code ≠ S_WAIT) : decodeSeq code m w = decodeSeq code n w := by
  simp [decodeSeq, h]

/-- The presented word is read only in S_IDLE (R91). -/
theorem decodeSeq_word (h : code ≠ S_IDLE) : decodeSeq code m w = decodeSeq code m v := by
  simp [decodeSeq, h]

/-- No SEQ code selects an event (R91, R97). -/
theorem decodeSeq_ne_convDone {raw : Sample} (h : decodeSeq code m w = .instr i) : i ≠ .convDone raw := by
  rintro rfl
  obtain rfl : code = 7#3 := code_of_decodeSeq h
  simp at h

end

/-! The guards of the events. -/

theorem decodeConv_eq_iff {c : Byte} {raw : Sample} :
    decodeConv c raw = .instr (.convDone raw) ↔ c &&& 0xC0#8 = 0xC0#8 := by
  simp [decodeConv]

theorem decodeNotify_eq_iff {c : Byte} : decodeNotify c = .instr .notify ↔ c &&& 0x18#8 = 0x18#8 := by
  simp [decodeNotify]

theorem convDone_of_decodeConv {c : Byte} {raw : Sample} {i : Instr} (h : decodeConv c raw = .instr i) :
    c &&& 0xC0#8 = 0xC0#8 ∧ i = .convDone raw := by
  unfold decodeConv at h
  split at h
  · next hg => cases h; exact ⟨hg, rfl⟩
  · cases h

theorem notify_of_decodeNotify {c : Byte} {i : Instr} (h : decodeNotify c = .instr i) :
    c &&& 0x18#8 = 0x18#8 ∧ i = .notify := by
  unfold decodeNotify at h
  split at h
  · next hg => cases h; exact ⟨hg, rfl⟩
  · cases h

/-! The written commands (R98). The three spellings of each are told apart by their first letters. -/

theorem commandWord_READ (cs : List Char) :
    commandWord ('R' :: 'E' :: 'A' :: 'D' :: ' ' :: cs) = readText cs := rfl

theorem beforeBracket_append (cs : List Char) : beforeBracket (cs ++ [')']) = some cs := by
  simp [beforeBracket]

theorem commandWord_ReadChannel (cs : List Char) :
    commandWord ('R' :: 'e' :: 'a' :: 'd' :: 'C' :: 'h' :: 'a' :: 'n' :: 'n' :: 'e' :: 'l' :: '(' :: (cs ++ [')'])) =
      readText cs :=
  congrArg (·.bind readText) (beforeBracket_append cs)

theorem commandWord_read (cs : List Char) :
    commandWord ('r' :: 'e' :: 'a' :: 'd' :: '(' :: (cs ++ [')'])) = readText cs :=
  congrArg (·.bind readText) (beforeBracket_append cs)

theorem readText_digit (d : Fin 8) :
    readText [Char.ofNat (48 + d.val)] = some (0x20#8 + BitVec.ofNat 8 d.val) := by
  revert d; decide

end Sys2Proof.Machine
end

section
/-! PROOFS. A coded form placed for the next step (R80, logs 10 and 11). -/

namespace Sys2Proof.Machine

theorem decode_tableCode {nbits w : Nat} {i : Instr} (h : decodeTableWord nbits w = some i) :
    decode (tableCode nbits w) = .instr i := by
  unfold decodeTableWord at h
  split at h
  · next hd => rw [hd, Option.some.inj h]
  · cases h

/-- Where an instruction placed for the next step runs: CONV_DONE after its raw value has been taken (R167), every
other where the step begins. -/
def runsFrom (i : Instr) (b : State) : State :=
  match i with
  | .convDone _ => b.afterRaw
  | _ => b

theorem runsFrom_eq_self {i : Instr} (b : State) (h : ∀ raw, i ≠ .convDone raw) : runsFrom i b = b := by
  cases i with
  | convDone raw => exact absurd rfl (h raw)
  | _ => rfl

/-- Guard bits set in a register are found there. -/
theorem guard_placed {c g : Byte} (b : Byte) (h : c &&& g = g) : (b ||| (c &&& g)) &&& g = g := by
  rw [h]
  ext i hi
  cases hb : g[i] <;> simp [hb]

section
variable {s : State} {i : Instr}

/-- A host finds no room for a word while one waits (R139). -/
theorem hostPresents_of_port_taken {w : Byte} (h : s.cmdPort = some w) : hostPresents s = s := by
  simp [hostPresents, h]

theorem step_placeCmd {w : Byte} (hd : decodeCommand w = .instr i)
    (hr : reservedValue (placeCode (.cmd w) s) = none) :
    step (placeCode (.cmd w) s) = exec i (placeCode (.cmd w) s).beginStep := by
  have hp : hostPresents (placeCode (.cmd w) s).beginStep = (placeCode (.cmd w) s).beginStep :=
    hostPresents_of_port_taken rfl
  rw [step_command hr rfl, commandTurn_instr (by rw [hp]; rfl) hd, hp]

/-- What the SEQ agent fetches decodes as the code placed: the word stands where ACCEPT takes it, and the mode
where S_WAIT looks it up. -/
theorem fetchSeq_placeSeq (code : BitVec 3) (m : Mode) (w : Byte) (s : State) :
    ∃ c, fetchSeq (placeCode (.seq code m w) s).beginStep = some c ∧ decode c = decodeSeq code m w := by
  by_cases hidle : code = S_IDLE
  · subst hidle
    exact ⟨.seq S_IDLE s.cfg.mode w, rfl, rfl⟩
  · refine ⟨.seq code (placeCode (.seq code m w) s).cfg.mode 0#8, if_neg hidle, ?_⟩
    by_cases hwait : code = S_WAIT
    · subst hwait
      exact decodeSeq_word hidle
    · exact (decodeSeq_mode hwait).trans (decodeSeq_word hidle)

theorem step_placeSeq {code : BitVec 3} {m : Mode} {w : Byte} (hd : decodeSeq code m w = .instr i)
    (hr : reservedValue (placeCode (.seq code m w) s) = none) :
    step (placeCode (.seq code m w) s) = exec i (placeCode (.seq code m w) s).beginStep := by
  obtain ⟨c, hf, hc⟩ := fetchSeq_placeSeq code m w s
  rw [step_seq hr rfl, seqTurn_some hf, runCode_instr _ _ (hc.trans hd)]

theorem step_placeConv {c : Byte} {raw : Sample} (hg : c &&& 0xC0#8 = 0xC0#8)
    (hr : reservedValue (placeCode (.conv c raw) s) = none) :
    step (placeCode (.conv c raw) s) = exec (.convDone raw) (placeCode (.conv c raw) s).beginStep.afterRaw :=
  (step_conv hr rfl).trans (runCode_instr _ _ (decodeConv_eq_iff.2 (guard_placed s.ctlstat hg)))

theorem step_placeNotify {c : Byte} (hg : c &&& 0x18#8 = 0x18#8)
    (hr : reservedValue (placeCode (.notify c) s) = none) :
    step (placeCode (.notify c) s) = exec .notify (placeCode (.notify c) s).beginStep :=
  (step_notify hr rfl).trans (runCode_instr _ _ (decodeNotify_eq_iff.2 (guard_placed s.ctlstat hg)))

/-- A coded form that names an instruction, placed, is that instruction in the next step. -/
theorem step_placeCode {c : Code} (hd : decode c = .instr i) (hr : reservedValue (placeCode c s) = none) :
    step (placeCode c s) = exec i (runsFrom i (placeCode c s).beginStep) := by
  cases c with
  | cmd w =>
    rw [runsFrom_eq_self _ fun raw => decodeCommand_ne_convDone hd, step_placeCmd hd hr]
  | seq code m w =>
    rw [runsFrom_eq_self _ fun raw => decodeSeq_ne_convDone hd, step_placeSeq hd hr]
  | conv ctlstat raw =>
    obtain ⟨hg, rfl⟩ := convDone_of_decodeConv hd
    exact step_placeConv hg hr
  | notify ctlstat =>
    obtain ⟨hg, rfl⟩ := notify_of_decodeNotify hd
    exact step_placeNotify hg hr

end

end Sys2Proof.Machine
end

section
/-! PROOFS. The reasons a step can be refused for (R95, R131, R143). -/

namespace Sys2Proof.Machine

/-- The reserved values of the state (R95, R143). -/
def reservedRefusals : List Refusal :=
  [.reservedSequencerState, .reservedReference, .reservedChannel, .reservedAutoTriggerBit]

/-- ACCEPT's reasons (R131). -/
def acceptRefusals : List Refusal :=
  [.autoTriggerUnimplemented, .reservedCommand, .reInitialize, .readBeforeInitialize]

theorem not_mem_acceptRefusals : ∀ why ∈ reservedRefusals, why ∉ acceptRefusals := by decide

theorem reservedValue_mem {s : State} {why : Refusal} (h : reservedValue s = some why) :
    why ∈ reservedRefusals := by
  unfold reservedValue at h
  split_ifs at h <;> cases h <;> decide

/-- The result is refused, if at all, for one of ACCEPT's reasons. -/
def RefusedOnlyByAccept (r : Result) : Prop := ∀ why, r = .refused why → why ∈ acceptRefusals

section
variable {r q : Result} {s : State}

theorem refusedOnlyByAccept_next : RefusedOnlyByAccept (.next s) := nofun

theorem refusedOnlyByAccept_refused {why : Refusal} (h : why ∈ acceptRefusals) :
    RefusedOnlyByAccept (.refused why) := by
  rintro _ ⟨⟩
  exact h

theorem RefusedOnlyByAccept.ite {c : Prop} [Decidable c] (hr : RefusedOnlyByAccept r)
    (hq : RefusedOnlyByAccept q) : RefusedOnlyByAccept (if c then r else q) := by
  split
  · exact hr
  · exact hq

theorem RefusedOnlyByAccept.andThen {k : State → Result} (hr : RefusedOnlyByAccept r)
    (hk : ∀ t, RefusedOnlyByAccept (k t)) : RefusedOnlyByAccept (andThen r k) := by
  cases r with
  | next t => exact hk t
  | fault f => exact nomatch f
  | refused why => exact hr

theorem acceptWord_refusals (w : Byte) (s : State) : RefusedOnlyByAccept (acceptWord w s) := by
  unfold acceptWord
  cases trigResolve s.cfg.trig with
  | unimplemented => exact refusedOnlyByAccept_refused (by decide)
  | aten bit =>
    rcases decodeCommand_cases w with hd | ⟨c, hd, -⟩ | ⟨why, hd⟩ <;> simp only [hd]
    · exact .ite (refusedOnlyByAccept_refused (by decide)) refusedOnlyByAccept_next
    · exact .ite refusedOnlyByAccept_next (refusedOnlyByAccept_refused (by decide))
    · exact refusedOnlyByAccept_refused (by decide)

theorem execAccept_refusals (w : Byte) (s : State) : RefusedOnlyByAccept (execAccept w s) :=
  (acceptWord_refusals w s).ite refusedOnlyByAccept_next

/-! A test of enabledness between two next states, as in every other micro-operation and event, refuses nothing. -/

theorem nextIte_refusals {c : Prop} [Decidable c] {t u : State} :
    RefusedOnlyByAccept (if c then .next t else .next u) := refusedOnlyByAccept_next.ite refusedOnlyByAccept_next

theorem execWaitp_refusals (s : State) : RefusedOnlyByAccept (execWaitp s) :=
  nextIte_refusals.ite refusedOnlyByAccept_next

theorem finishWait_refusals (s : State) : RefusedOnlyByAccept (finishWait s) := by
  unfold finishWait
  cases s.cfg.mode with
  | polled => exact execWaitp_refusals s
  | interrupt => exact nextIte_refusals.andThen fun _ => nextIte_refusals

theorem carryOut_refusals (w : Byte) {rest : State → Result} (hrest : ∀ t, RefusedOnlyByAccept (rest t))
    (s : State) : RefusedOnlyByAccept (carryOut w rest s) :=
  ((execAccept_refusals w (s.setPort (some w))).andThen hrest).ite refusedOnlyByAccept_next

theorem execInit_refusals (s : State) : RefusedOnlyByAccept (execInit s) :=
  carryOut_refusals initWord (fun _ => nextIte_refusals.andThen fun _ => nextIte_refusals) s

theorem execRead_refusals (c : BitVec 5) (s : State) : RefusedOnlyByAccept (execRead c s) :=
  carryOut_refusals (readWord c) (fun _ =>
    nextIte_refusals.andThen fun _ => nextIte_refusals.andThen fun _ => nextIte_refusals.andThen fun t =>
      (finishWait_refusals t).andThen fun _ => nextIte_refusals) s

theorem exec_refusals (i : Instr) (s : State) : RefusedOnlyByAccept (exec i s) := by
  cases i with
  | init => exact execInit_refusals s
  | read c => exact execRead_refusals c s
  | accept w => exact execAccept_refusals w s
  | waitp => exact execWaitp_refusals s
  | _ => exact nextIte_refusals

theorem runCode_refusals (c : Code) (s held : State) : RefusedOnlyByAccept (runCode c s held) := by
  unfold runCode
  split
  · exact exec_refusals _ s
  · exact refusedOnlyByAccept_next

theorem seqTurn_refusals (s : State) : RefusedOnlyByAccept (seqTurn s) := by
  unfold seqTurn
  split
  · exact runCode_refusals _ s s
  · exact refusedOnlyByAccept_next

theorem commandTurn_refusals (s : State) : RefusedOnlyByAccept (commandTurn s) := by
  cases hp : (hostPresents s).cmdPort with
  | none => rw [commandTurn_none hp]; exact refusedOnlyByAccept_next
  | some w =>
    cases hd : decode (.cmd w) with
    | instr i => rw [commandTurn_instr hp hd]; exact exec_refusals i _
    | rejected why => rw [commandTurn_rejected hp hd]; exact exec_refusals _ _

theorem runTurn_refusals (t : Turn) (s : State) : RefusedOnlyByAccept (runTurn t s) := by
  cases t with
  | host => exact refusedOnlyByAccept_next
  | seq => exact seqTurn_refusals s
  | conv => exact runCode_refusals (.conv s.ctlstat s.nextRaw) s.afterRaw s
  | notify => exact runCode_refusals (.notify s.ctlstat) s s
  | command => exact commandTurn_refusals s
  | rst => exact refusedOnlyByAccept_next

theorem step_reserved {why : Refusal} (h : reservedValue s = some why) : step s = .refused why := by
  simp [step, stepOnce, h]

/-- A step is refused for a reserved value exactly when the state has one. -/
theorem step_refused_reserved_iff :
    (∃ why, step s = .refused why ∧ why ∈ reservedRefusals) ↔ reservedValue s ≠ none := by
  constructor
  · rintro ⟨why, hs, hmem⟩ hn
    rw [step_eq_runTurn hn] at hs
    exact not_mem_acceptRefusals why hmem (runTurn_refusals _ _ why hs)
  · intro h
    obtain ⟨why, hw⟩ := Option.ne_none_iff_exists'.1 h
    exact ⟨why, step_reserved hw, reservedValue_mem hw⟩

/-! The reserved values as masks of the registers (R84, R85). -/

theorem State.refs_reserved_iff (s : State) : s.refs = 0b10#2 ↔ s.muxctl &&& 0xC0#8 = 0x80#8 := by
  unfold State.refs
  generalize s.muxctl = b
  revert b; decide

theorem State.chsel_reserved_iff (s : State) : 7 < s.chsel.toNat ↔ s.muxctl &&& 0x18#8 ≠ 0#8 := by
  unfold State.chsel
  generalize s.muxctl = b
  revert b; decide

theorem State.aten_iff (s : State) : s.aten = true ↔ s.ctlstat &&& 0x20#8 ≠ 0#8 := by
  unfold State.aten
  generalize s.ctlstat = b
  revert b; decide

theorem reservedValue_ne_none (s : State) : reservedValue s ≠ none ↔
    s.seq = 7#3 ∨ s.refs = 0b10#2 ∨ 7 < s.chsel.toNat ∨ s.aten = true := by
  rw [ne_eq, reservedValue_none]
  by_cases hc : 7 < s.chsel.toNat
  · simp [hc]
  · simp [hc, Nat.not_lt.1 hc, imp_iff_not_or]

end

end Sys2Proof.Machine
end

section
/-! PROOFS. The statements of the encoding family. -/

namespace Sys2Proof.Machine

/-- Settles O3: READ's channel is the one operand with a range, its word gives back the channels 0 to 7, and every
word but INIT's and those eight is reserved. -/
theorem decodeAndEncodeAgree : Obligations.DecodeAndEncodeAgree :=
  ⟨fun _ => decode_encode, fun _ _ => encode_of_decodeCommand, fun _ => decode_encode_of_not_wellFormed⟩

/-- Settles O4: a SEQ code can be read back from what it selects, so no other code selects the same; in S_WAIT the
mode can be read back too. -/
theorem codedFormsNameTheirInstruction : Obligations.CodedFormsNameTheirInstruction :=
  ⟨fun _ _ => decodeConv_eq_iff, fun _ => decodeNotify_eq_iff, fun _ mode w =>
    ⟨decodeSeq_eq_iff (decodeSeq_idle mode w), decodeSeq_eq_iff (decodeSeq_select mode w),
      decodeSeq_eq_iff (decodeSeq_trigger mode w), decodeSeq_wait_iff (decodeSeq_wait_polled w) rfl,
      decodeSeq_wait_iff (decodeSeq_wait_interrupt w) rfl, decodeSeq_eq_iff (decodeSeq_ready mode w),
      decodeSeq_eq_iff (decodeSeq_init_mux mode w), decodeSeq_eq_iff (decodeSeq_init_ctl mode w),
      decodeSeq_eq_iff (decodeSeq_reserved mode w)⟩⟩

/-- Settles O31: whatever coded form the word is, its agent has the next turn and fetches a form that decodes to the
same instruction. -/
theorem placedTableWordRunsNext : Obligations.PlacedTableWordRunsNext :=
  fun _ _ _ _ hd hr => step_placeCode (decode_tableCode hd) hr

/-- Settles O32: a step is refused where its state has a reserved value, and otherwise by ACCEPT alone, for reasons
of its own. -/
theorem reservedStatesAreRefused : Obligations.ReservedStatesAreRefused := by
  intro s
  rw [← s.refs_reserved_iff, ← s.chsel_reserved_iff, ← s.aten_iff, ← reservedValue_ne_none]
  exact step_refused_reserved_iff

/-- Settles O2: the seventeen literal forms, decoded. -/
theorem specWordsDecodeToTheirInstructions : Obligations.SpecWordsDecodeToTheirInstructions := by
  unfold Obligations.SpecWordsDecodeToTheirInstructions
  decide

/-- Settles O58: each spelling of READ hands its digits to one reading of the channel. -/
theorem commandTextSpellsTheCommandWords : Obligations.CommandTextSpellsTheCommandWords := by
  refine ⟨rfl, rfl, rfl, fun d => ⟨?spaced, ?named, ?called⟩, ?reserved, ?noWord⟩
  case spaced => exact (commandWord_READ _).trans (readText_digit d)
  case named => exact (commandWord_ReadChannel [_]).trans (readText_digit d)
  case called => exact (commandWord_read [_]).trans (readText_digit d)
  case reserved => exact commandWord_READ ['8']
  case noWord => exact commandWord_READ ['3', '2']

end Sys2Proof.Machine
end

section
/-! PROOFS. The resolved codes and the elaboration of raw numbers (R111 to R116). -/

namespace Sys2Proof.Machine

/-! Each axis: its code names the choice again, and the other numbers are refused. -/

theorem refOfCode_refCode (r : Ref) : refOfCode (refCode r).toNat = some r := by cases r <;> rfl

theorem justOfCode_justCode (j : Just) : justOfCode (justCode j).toNat = some j := by cases j <;> rfl

theorem modeOfCode_ienCode (m : Mode) : modeOfCode (ienCode m).toNat = some m := by cases m <;> rfl

theorem prescOfDivisor_divisor (p : Presc) : prescOfDivisor (divisor p) = some p := by cases p <;> rfl

/-- `PrescCode` is the exponent of the divisor (R113). -/
theorem divisor_eq_two_pow (p : Presc) : divisor p = 2 ^ (prescCode p).toNat := by cases p <;> rfl

theorem refOfCode_eq_none_iff (n : Nat) : refOfCode n = none ↔ n ∉ [0b00, 0b01, 0b11] := by
  unfold refOfCode
  split <;> simp_all

theorem justOfCode_eq_none_iff (n : Nat) : justOfCode n = none ↔ n ∉ [0, 1] := by
  unfold justOfCode
  split <;> simp_all

theorem modeOfCode_eq_none_iff (n : Nat) : modeOfCode n = none ↔ n ∉ [0, 1] := by
  unfold modeOfCode
  split <;> simp_all

theorem prescOfDivisor_eq_none_iff (n : Nat) : prescOfDivisor n = none ↔ n ∉ [2, 4, 8, 16, 32, 64, 128] := by
  unfold prescOfDivisor
  split <;> simp_all

/-! Two choices with one code are the same choice (R119). -/

theorem refCode_injective : Function.Injective refCode :=
  .of_comp (f := fun b => refOfCode b.toNat) <| by
    simpa only [Function.comp_def, refOfCode_refCode] using Option.some_injective Ref

theorem justCode_injective : Function.Injective justCode :=
  .of_comp (f := fun b => justOfCode b.toNat) <| by
    simpa only [Function.comp_def, justOfCode_justCode] using Option.some_injective Just

theorem prescCode_injective : Function.Injective prescCode :=
  .of_comp (f := fun b => prescOfDivisor (2 ^ b.toNat)) <| by
    simpa only [Function.comp_def, ← divisor_eq_two_pow, prescOfDivisor_divisor] using Option.some_injective Presc

/-- Of two modes, which one it is tells them apart. -/
theorem mode_eq_of_interrupt_iff {m n : Mode} (h : m = .interrupt ↔ n = .interrupt) : m = n := by
  cases m <;> cases n <;> simp_all

/-! The whole record. -/

theorem elaborate_codes (c : Cfg) :
    elaborate ⟨(refCode c.ref).toNat, (justCode c.just).toNat, c.trig, (ienCode c.mode).toNat, divisor c.presc⟩ =
      some c := by
  simp [elaborate, refOfCode_refCode, justOfCode_justCode, modeOfCode_ienCode, prescOfDivisor_divisor]

/-- A record is refused where one of its axes is (R116). -/
theorem elaborate_eq_none_iff (r : RawCfg) :
    elaborate r = none ↔ refOfCode r.ref = none ∨ justOfCode r.just = none ∨ modeOfCode r.mode = none ∨
      prescOfDivisor r.divisor = none := by
  unfold elaborate
  split
  next hr hj hm hp => simp [hr, hj, hm, hp]
  next hnot =>
    simp only [true_iff]
    by_contra hall
    simp only [not_or, Option.ne_none_iff_exists'] at hall
    obtain ⟨⟨ref, hr⟩, ⟨just, hj⟩, ⟨mode, hm⟩, ⟨presc, hp⟩⟩ := hall
    exact hnot ref just mode presc hr hj hm hp

end Sys2Proof.Machine
end

section
/-! PROOFS. INIT from an idle disabled block (R132), the patterns it writes into registers of zeros (R118), and that
no step changes the configuration they are resolved from (R117). -/

namespace Sys2Proof.Machine

section
variable {s t : State}

/-- INIT's three micro-operations run through in an idle block that is not enabled (R132). -/
theorem execInit_idle (hq : s.seq = S_IDLE) (ht : s.cfg.trig = .disabled) (he : s.en = false) :
    execInit s = .next (((((((s.setPort (some initWord)).take initWord S_INIT_MUX).writeFields .muxctl
      (muxInit s.cfg)).setSeq S_INIT_CTL).writeFields .ctlstat (ctlInit s.cfg)).emit .initDone).setSeq S_IDLE) := by
  have haccept : acceptWord initWord (s.setPort (some initWord)) =
      .next ((s.setPort (some initWord)).take initWord S_INIT_MUX) := acceptWord_init ht he
  rw [execInit, carryOut_idle hq, haccept, andThen_next, execInitmux_enabled rfl, andThen_next,
    execInitctl_enabled rfl]
  rfl

/-- From reset, INIT leaves the two register writes of R138 made on zeros. -/
theorem exec_init_resetOf {cfg : Cfg} (ht : cfg.trig = .disabled) :
    ∃ t, exec .init (State.resetOf cfg) = .next t ∧
      t.muxctl = putFields (muxInit cfg) 0x00#8 ∧ t.ctlstat = putFields (ctlInit cfg) 0x00#8 :=
  ⟨_, execInit_idle rfl ht (fieldBit_zero .en), rfl, rfl⟩

/-- Whatever the codes of REFS and JUST, their writes into zeros are the codes at the fields' positions. -/
theorem putFields_refs_just_zero (ref : BitVec 2) (just : BitVec 1) :
    putFields [(.refs, ref.setWidth 8), (.just, just.setWidth 8)] 0x00#8 =
      (ref.setWidth 8 <<< 6) ||| (just.setWidth 8 <<< 5) := by
  revert ref just; decide

/-- The same of PRESC and IEN, with EN set. -/
theorem putFields_presc_ien_en_zero (presc : BitVec 3) (ien : BitVec 1) :
    putFields [(.presc, presc.setWidth 8), (.ien, ien.setWidth 8), (.en, 1#8)] 0x00#8 =
      0x80#8 ||| (ien.setWidth 8 <<< 3) ||| presc.setWidth 8 := by
  revert presc ien; decide

/-- Over any register contents, every axis but the trigger source can be read back from INIT's writes (R119). -/
theorem cfg_eq_of_patterns {c d : Cfg} {mux ctl : Byte} (ht : c.trig = d.trig)
    (hm : putFields (muxInit c) mux = putFields (muxInit d) mux)
    (hc : putFields (ctlInit c) ctl = putFields (ctlInit d) ctl) : c = d := by
  obtain ⟨hcRef, hcJust, -⟩ := muxInit_writes c mux
  obtain ⟨hdRef, hdJust, -⟩ := muxInit_writes d mux
  obtain ⟨-, hcMode, hcPresc⟩ := ctlInit_writes c ctl
  obtain ⟨-, hdMode, hdPresc⟩ := ctlInit_writes d ctl
  rw [hm] at hcRef hcJust
  rw [hc] at hcMode hcPresc
  have hmode : c.mode = d.mode := mode_eq_of_interrupt_iff (hcMode.symm.trans hdMode)
  have href : c.ref = d.ref := refCode_injective (hcRef.symm.trans hdRef)
  have hjust : c.just = d.just := justCode_injective (hcJust.symm.trans hdJust)
  have hpresc : c.presc = d.presc := prescCode_injective (hcPresc.symm.trans hdPresc)
  cases c
  cases d
  subst href hjust ht hmode hpresc
  rfl

/-- No move writes the configuration (R117). -/
theorem Move.cfg_eq (h : Move s t) : t.cfg = s.cfg := by
  cases h with
  | convDone raw => exact s.delivered_cfg raw
  | _ => rfl

end

end Sys2Proof.Machine
end

section
/-! PROOFS. The statements of the configuration family. -/

namespace Sys2Proof.Machine

/-- Settles O8: INIT runs through from reset, and its writes meet registers of zeros. -/
theorem resolvedPatternsAfterResetAndInit : Obligations.ResolvedPatternsAfterResetAndInit := by
  intro cfg ht
  obtain ⟨t, hexec, hmux, hctl⟩ := exec_init_resetOf ht
  exact ⟨t, hexec, hmux.trans (putFields_refs_just_zero _ _), hctl.trans (putFields_presc_ien_en_zero _ _)⟩

/-- Settles O9: admitted configurations share their trigger source, and the two registers tell every other axis. -/
theorem resolvedPatternsTellConfigurationsApart : Obligations.ResolvedPatternsTellConfigurationsApart := by
  intro c d hc hd t u ht hu hmux hctl
  have hct : c.trig = .disabled := of_decide_eq_true hc
  have hdt : d.trig = .disabled := of_decide_eq_true hd
  obtain ⟨t', ht', htMux, htCtl⟩ := exec_init_resetOf hct
  obtain ⟨u', hu', huMux, huCtl⟩ := exec_init_resetOf hdt
  cases ht.symm.trans ht'
  cases hu.symm.trans hu'
  exact cfg_eq_of_patterns (hct.trans hdt.symm) (htMux.symm.trans (hmux.trans huMux))
    (htCtl.symm.trans (hctl.trans huCtl))

/-- Settles O10: each axis admits its closed set, and a record is refused where one of its axes is. -/
theorem elaborationAdmitsExactlyTheClosedSets : Obligations.ElaborationAdmitsExactlyTheClosedSets := by
  refine ⟨elaborate_codes, fun c => divisor_eq_two_pow c.presc, fun r => ?_⟩
  rw [elaborate_eq_none_iff, refOfCode_eq_none_iff, justOfCode_eq_none_iff, modeOfCode_eq_none_iff,
    prescOfDivisor_eq_none_iff]
  simp only [not_and_or]

/-- Settles O37: reset, every move and RET keep the configuration. -/
theorem everyStepKeepsTheConfiguration : Obligations.EveryStepKeepsTheConfiguration := by
  intro s t h
  rw [← s.beginStep_cfg]
  rcases step_acts h with ⟨-, rfl⟩ | ⟨-, hacts⟩
  · rfl
  · exact hacts.keep (P := fun a => a.cfg = s.beginStep.cfg) (fun hm ha => hm.cfg_eq.trans ha) (fun _ ha => ha) rfl

end Sys2Proof.Machine
end

section
/-! PROOFS. Register writes and CONV_DONE leave the port and the host's list alone (R77). -/

namespace Sys2Proof.Machine

section
variable (s : State)

@[simp] theorem State.writeReg_cmdPort (r : Reg) (v : Byte) : (s.writeReg r v).cmdPort = s.cmdPort := by
  simp [State.writeReg]
@[simp] theorem State.writeReg_cmds (r : Reg) (v : Byte) : (s.writeReg r v).cmds = s.cmds := by
  simp [State.writeReg]
@[simp] theorem State.writeFields_cmdPort (r : Reg) (fs : List (Field × Byte)) :
    (s.writeFields r fs).cmdPort = s.cmdPort := s.writeReg_cmdPort r _
@[simp] theorem State.writeFields_cmds (r : Reg) (fs : List (Field × Byte)) :
    (s.writeFields r fs).cmds = s.cmds := s.writeReg_cmds r _
@[simp] theorem State.delivered_cmdPort (raw : Sample) : (s.delivered raw).cmdPort = s.cmdPort := by
  simp [State.delivered]
@[simp] theorem State.delivered_cmds (raw : Sample) : (s.delivered raw).cmds = s.cmds := by
  simp [State.delivered]

end

end Sys2Proof.Machine
end

section
/-! PROOFS. The duties of the host along a step (R140): every micro-operation, event and command of a host that keeps
them answers a next state, in which it still does. -/

namespace Sys2Proof.Machine

/-- The result is a next state, one that `P` holds of. -/
def Answers (P : State → Prop) (r : Result) : Prop := ∃ t, r = .next t ∧ P t

section
variable {s t : State} {P Q : State → Prop}

theorem Answers.next (h : P t) : Answers P (.next t) := ⟨t, rfl, h⟩

/-- A test of enabledness: the state it leaves, and the state in which the agent holds (R16). -/
theorem Answers.ite {c : Prop} [Decidable c] (ht : c → P t) (hs : ¬ c → P s) :
    Answers P (if c then .next t else .next s) := by
  split
  · next hc => exact .next (ht hc)
  · next hc => exact .next (hs hc)

theorem Answers.andThen {r : Result} {k : State → Result} (hr : Answers P r)
    (hk : ∀ t, P t → Answers Q (k t)) : Answers Q (andThen r k) := by
  obtain ⟨t, rfl, ht⟩ := hr
  exact hk t ht

/-! The duties read the configuration, whether INIT has been accepted, and the words still to be accepted. -/

theorem HostKeepsDuties.congr (h : HostKeepsDuties s) (hc : t.cfg = s.cfg)
    (hi : t.initAccepted = s.initAccepted) (hport : t.cmdPort = s.cmdPort) (hcmds : t.cmds = s.cmds) :
    HostKeepsDuties t := by
  rw [HostKeepsDuties, State.pending, hc, hi, hport, hcmds]
  exact h

theorem HostKeepsDuties.trig (h : HostKeepsDuties s) : s.cfg.trig = .disabled := of_decide_eq_true h.1

theorem initAccepted_congr (hen : t.en = s.en) (hq : t.seq = s.seq) : t.initAccepted = s.initAccepted := by
  rw [State.initAccepted, hen, hq, State.initAccepted]

/-- Outside INIT, INIT has been accepted exactly when the block is enabled. -/
theorem initAccepted_eq_en (hmux : s.seq ≠ S_INIT_MUX) (hctl : s.seq ≠ S_INIT_CTL) : s.initAccepted = s.en := by
  simp [State.initAccepted, hmux, hctl]

/-- Between SEQ values outside INIT an action that keeps EN keeps the duties. -/
theorem HostKeepsDuties.outside_init (h : HostKeepsDuties s) {p : BitVec 3} (q : BitVec 3) (hs : s.seq = p)
    (ht : t.seq = q) (hp : p ≠ S_INIT_MUX ∧ p ≠ S_INIT_CTL) (hq : q ≠ S_INIT_MUX ∧ q ≠ S_INIT_CTL)
    (hc : t.cfg = s.cfg) (hen : t.en = s.en) (hport : t.cmdPort = s.cmdPort) (hcmds : t.cmds = s.cmds) :
    HostKeepsDuties t := by
  subst hs ht
  refine h.congr hc ?_ hport hcmds
  rw [initAccepted_eq_en hp.1 hp.2, initAccepted_eq_en hq.1 hq.2, hen]

theorem pending_of_port {w : Byte} (hp : s.cmdPort = some w) : s.pending = w :: s.cmds := by
  simp [State.pending, hp]

/-- Presenting a word moves it from the host's list to the port, and no word is lost. -/
theorem hostPresents_pending (s : State) : (hostPresents s).pending = s.pending := by
  rcases hostPresents_cases s with ⟨w, rest, hp, hc, h⟩ | ⟨-, h⟩ <;> rw [h]
  simp [State.pending, hp, hc]

theorem HostKeepsDuties.hostPresents (h : HostKeepsDuties s) : HostKeepsDuties (hostPresents s) := by
  have hi : (Machine.hostPresents s).initAccepted = s.initAccepted :=
    initAccepted_congr (by simp [State.en]) (by simp)
  rw [HostKeepsDuties, hostPresents_cfg, hi, hostPresents_pending]
  exact h

theorem HostKeepsDuties.beginStep (h : HostKeepsDuties s) : HostKeepsDuties s.beginStep :=
  h.congr (by simp) (initAccepted_congr (by simp) (by simp)) (by simp) (by simp)

theorem HostKeepsDuties.afterRaw (h : HostKeepsDuties s) : HostKeepsDuties s.afterRaw :=
  h.congr (by simp) (initAccepted_congr (by simp [State.en]) (by simp)) (by simp) (by simp)

/-- The word at the port of a host that keeps its duties: INIT before INIT has been accepted, or READ after it; and
the words after it keep the duties of a host whose INIT has been accepted. -/
theorem HostKeepsDuties.word_at_port (h : HostKeepsDuties s) {w : Byte} (hp : s.cmdPort = some w) :
    dutiful true s.cmds = true ∧
    ((w = initWord ∧ s.initAccepted = false) ∨
     (∃ c : BitVec 5, w = readWord c ∧ c.toNat ≤ 7 ∧ s.initAccepted = true)) := by
  have hd : dutiful s.initAccepted (w :: s.cmds) = true := pending_of_port hp ▸ h.2
  rcases decodeCommand_cases w with hw | ⟨c, hw, hc, rfl⟩ | ⟨why, hw⟩ <;>
    simp only [dutiful, hw, Bool.and_eq_true, Bool.not_eq_true', Bool.false_eq_true] at hd
  · exact ⟨hd.2, .inl ⟨eq_zero_of_decodeCommand_init hw, hd.1⟩⟩
  · exact ⟨hd.2, .inr ⟨c, rfl, hc, hd.1⟩⟩

/-- An accepted word leaves the port, and INIT has been accepted from then on. -/
theorem HostKeepsDuties.take (h : HostKeepsDuties s) {w : Byte} {q : BitVec 3}
    (hi : (s.take w q).initAccepted = true) (hd : dutiful true s.cmds = true) : HostKeepsDuties (s.take w q) := by
  refine ⟨h.1, ?_⟩
  rw [hi]
  exact hd

theorem acceptWord_keeps_duties (h : HostKeepsDuties s) (hq : s.seq = S_IDLE) {w : Byte} (hp : s.cmdPort = some w) :
    Answers HostKeepsDuties (acceptWord w s) := by
  have hacc : s.initAccepted = s.en := initAccepted_eq_en (by rw [hq]; decide) (by rw [hq]; decide)
  obtain ⟨hd, ⟨rfl, hen⟩ | ⟨c, rfl, hc, hen⟩⟩ := h.word_at_port hp <;> rw [hacc] at hen
  · have hi : (s.take initWord S_INIT_MUX).initAccepted = true := by simp [State.initAccepted]
    exact ⟨_, acceptWord_init h.trig hen, h.take hi hd⟩
  · have hi : (s.take (readWord c) S_SELECT).initAccepted = true :=
      (initAccepted_eq_en (by rw [State.take_seq]; decide) (by rw [State.take_seq]; decide)).trans hen
    exact ⟨_, acceptWord_read h.trig (isReadWord_readWord hc) hen, h.take hi hd⟩

theorem execInitmux_keeps_duties (h : HostKeepsDuties s) : Answers HostKeepsDuties (execInitmux s) :=
  .ite (fun hq => h.congr rfl (by simp [State.initAccepted, hq]) rfl rfl) fun _ => h

theorem execInitctl_keeps_duties (h : HostKeepsDuties s) : Answers HostKeepsDuties (execInitctl s) := by
  refine .ite (fun hq => h.congr rfl ?_ rfl rfl) fun _ => h
  have hen := (ctlInit_writes s.cfg s.ctlstat).1
  simp [State.initAccepted, hq, State.en, hen]

theorem execSelch_keeps_duties (h : HostKeepsDuties s) : Answers HostKeepsDuties (execSelch s) :=
  .ite (fun hq => h.outside_init S_TRIGGER hq rfl (by decide) (by decide) rfl rfl rfl rfl) fun _ => h

/-- A write of START and DONE keeps EN (R161, R167, R169). -/
theorem statusWrite_en {fs : List (Field × Byte)} (hfs : ∀ p ∈ fs, p.1 = .start ∨ p.1 = .done)
    (h : t.ctlstat = putFields fs s.ctlstat) : t.en = s.en := by
  obtain ⟨-, hen, -, -⟩ := State.statusWrite_fields hfs h
  exact hen

theorem execTrig_keeps_duties (h : HostKeepsDuties s) : Answers HostKeepsDuties (execTrig s) := by
  refine .ite (fun hq => h.outside_init S_WAIT hq rfl (by decide) (by decide) rfl ?_ rfl rfl) fun _ => h
  exact statusWrite_en (fs := [(.start, 1#8), (.done, 0#8)]) (by decide) rfl

theorem HostKeepsDuties.delivered (h : HostKeepsDuties s) (raw : Sample) : HostKeepsDuties (s.delivered raw) := by
  have hen : (s.delivered raw).en = s.en :=
    statusWrite_en (fs := [(.start, 0#8), (.done, 1#8)]) (by decide) (s.delivered_ctlstat raw)
  exact h.congr (s.delivered_cfg raw) (initAccepted_congr hen (s.delivered_seq raw)) (by simp) (by simp)

theorem execConvDone_keeps_duties (h : HostKeepsDuties s) (raw : Sample) :
    Answers HostKeepsDuties (execConvDone raw s) :=
  .ite (fun _ => h.delivered raw) fun _ => h

theorem execNotify_keeps_duties (h : HostKeepsDuties s) : Answers HostKeepsDuties (execNotify s) := by
  refine .ite (fun _ => h.congr rfl (initAccepted_congr ?_ rfl) rfl rfl) fun _ => h
  exact statusWrite_en (fs := [(.done, 0#8)]) (by decide) rfl

theorem execWaitp_keeps_duties (h : HostKeepsDuties s) : Answers HostKeepsDuties (execWaitp s) := by
  have hset (hq : s.seq = S_WAIT) {q : BitVec 3} (hout : q ≠ S_INIT_MUX ∧ q ≠ S_INIT_CTL) :
      HostKeepsDuties (s.setSeq q) := h.outside_init q hq rfl (by decide) hout rfl rfl rfl rfl
  unfold execWaitp
  split
  · next hg => exact .ite (fun _ => hset hg.1 (by decide)) (fun _ => hset hg.1 (by decide))
  · exact .next h

theorem execWaiti_keeps_duties (h : HostKeepsDuties s) : Answers HostKeepsDuties (execWaiti s) :=
  .ite (fun hg => h.outside_init S_READY hg.1 rfl (by decide) (by decide) rfl rfl rfl rfl) fun _ => h

theorem execRet_keeps_duties (h : HostKeepsDuties s) : Answers HostKeepsDuties (execRet s) :=
  .ite (fun hq => h.outside_init S_IDLE hq rfl (by decide) (by decide) rfl rfl rfl rfl) fun _ => h

theorem finishWait_keeps_duties (h : HostKeepsDuties s) : Answers HostKeepsDuties (finishWait s) := by
  unfold finishWait
  split
  · exact execWaitp_keeps_duties h
  · exact (execNotify_keeps_duties h).andThen fun _ => execWaiti_keeps_duties

/-! The whole commands (R132, R135). -/

theorem carryOut_keeps_duties (h : HostKeepsDuties s) {w : Byte} (hp : s.cmdPort = some w) {rest : State → Result}
    (hrest : ∀ t, HostKeepsDuties t → Answers HostKeepsDuties (rest t)) :
    Answers HostKeepsDuties (carryOut w rest s) := by
  have hport : s.setPort (some w) = s := by rw [State.setPort, ← hp]
  by_cases hq : s.seq = S_IDLE
  · rw [carryOut_idle hq, hport]
    exact (acceptWord_keeps_duties h hq hp).andThen hrest
  · rw [carryOut_busy hq, hport]
    exact .next h

theorem execInit_keeps_duties (h : HostKeepsDuties s) (hp : s.cmdPort = some initWord) :
    Answers HostKeepsDuties (execInit s) :=
  carryOut_keeps_duties h hp fun _ ht => (execInitmux_keeps_duties ht).andThen fun _ => execInitctl_keeps_duties

theorem execRead_keeps_duties (h : HostKeepsDuties s) {c : BitVec 5} (hp : s.cmdPort = some (readWord c)) :
    Answers HostKeepsDuties (execRead c s) :=
  carryOut_keeps_duties h hp fun _ ht =>
    (execSelch_keeps_duties ht).andThen fun _ ht => (execTrig_keeps_duties ht).andThen fun _ ht =>
      (execConvDone_keeps_duties ht.afterRaw _).andThen fun _ ht => (finishWait_keeps_duties ht).andThen fun _ =>
        execRet_keeps_duties

/-! The turns (R13). -/

theorem seqTurn_keeps_duties (h : HostKeepsDuties s) : Answers HostKeepsDuties (seqTurn s) := by
  rcases seq_values s.seq with q | q | q | q | q | q | q | q
  · cases hp : s.cmdPort with
    | none => exact ⟨s, seqTurn_idle q hp, h⟩
    | some w => rw [seqTurn_acceptWord q hp]; exact acceptWord_keeps_duties h q hp
  · rw [seqTurn_select q]; exact execSelch_keeps_duties h
  · rw [seqTurn_trigger q]; exact execTrig_keeps_duties h
  · cases hm : s.cfg.mode with
    | polled => rw [seqTurn_wait_polled q hm]; exact execWaitp_keeps_duties h
    | interrupt => rw [seqTurn_wait_interrupt q hm]; exact execWaiti_keeps_duties h
  · rw [seqTurn_ready q]; exact execRet_keeps_duties h
  · rw [seqTurn_init_mux q]; exact execInitmux_keeps_duties h
  · rw [seqTurn_init_ctl q]; exact execInitctl_keeps_duties h
  · exact ⟨s, seqTurn_reserved q, h⟩

theorem convTurn_keeps_duties (h : HostKeepsDuties s) : Answers HostKeepsDuties (convTurn s) := by
  cases hf : s.inFlight with
  | true => rw [convTurn_enabled hf]; exact execConvDone_keeps_duties h.afterRaw _
  | false => exact ⟨s, convTurn_disabled hf, h⟩

/-- A host that keeps its duties presents no reserved word, so a whole command is INIT or READ. -/
theorem commandTurn_keeps_duties (h : HostKeepsDuties s) : Answers HostKeepsDuties (commandTurn s) := by
  have hduties := h.hostPresents
  cases hp : (hostPresents s).cmdPort with
  | none => exact ⟨s, commandTurn_none hp, h⟩
  | some w =>
    obtain ⟨-, ⟨rfl, -⟩ | ⟨c, rfl, hc, -⟩⟩ := hduties.word_at_port hp
    · rw [commandTurn_instr hp (i := .init) rfl]
      exact execInit_keeps_duties hduties hp
    · rw [commandTurn_instr hp (decodeCommand_readWord hc)]
      exact execRead_keeps_duties hduties hp

theorem runTurn_keeps_duties {turn : Turn} (hr : turn ≠ .rst) (h : HostKeepsDuties s) :
    Answers HostKeepsDuties (runTurn turn s) := by
  cases turn with
  | host => exact .next h.hostPresents
  | seq => exact seqTurn_keeps_duties h
  | conv => exact convTurn_keeps_duties h
  | notify => rw [runTurn, notifyTurn_eq]; exact execNotify_keeps_duties h
  | command => exact commandTurn_keeps_duties h
  | rst => exact absurd rfl hr

/-- The invariant shuts out the reserved values (R95, R143). -/
theorem Inv.reservedValue_none (h : Inv s) : reservedValue s = none :=
  (Machine.reservedValue_none s).2 ⟨h.seqLegal, h.refsLegal, h.channelLegal, h.atenClear⟩

end

end Sys2Proof.Machine
end

section
/-! PROOFS. What the writes of one register leave of its old value, as masks (R63, R150, R161, R167, R169). -/

namespace Sys2Proof.Machine

/-- The bits of the fields. -/
def fieldsMask : List Field → Byte
  | [] => 0x00#8
  | f :: rest => fieldMask f ||| fieldsMask rest

/-- A field put keeps the bits outside the field and adds what it makes of a register of zeros. -/
theorem fieldPut_eq_or (f : Field) (v b : Byte) :
    fieldPut f v b = (b &&& ~~~ fieldMask f) ||| fieldPut f v 0x00#8 := by
  simp [fieldPut]

/-- Any writes of one register keep the bits outside their fields and add what they make of a register of zeros. -/
theorem putFields_eq_or (fs : List (Field × Byte)) (b : Byte) :
    putFields fs b = (b &&& ~~~ fieldsMask (fs.map Prod.fst)) ||| putFields fs 0x00#8 := by
  induction fs generalizing b with
  | nil => exact (BitVec.or_zero.trans BitVec.and_allOnes).symm
  | cons p rest ih =>
    obtain ⟨f, v⟩ := p
    rw [putFields_cons, putFields_cons, ih (fieldPut f v b), ih (fieldPut f v 0x00#8), fieldPut_eq_or f v b]
    ext i hi
    simp [fieldsMask, Bool.and_or_distrib_right, Bool.and_assoc, Bool.or_assoc]

/-- The same writes made again change nothing (R63, R138). -/
theorem putFields_idem (fs : List (Field × Byte)) (b : Byte) :
    putFields fs (putFields fs b) = putFields fs b := by
  rw [putFields_eq_or fs (putFields fs b), putFields_eq_or fs b]
  ext i hi
  cases hz : (putFields fs 0x00#8)[i] <;> simp [hz]

/-- INITMUX's write (R133): the codes of REFS and JUST, and CHSEL as before. -/
theorem muxInit_pattern (c : Cfg) (b : Byte) : putFields (muxInit c) b =
    (b &&& 0x1F#8) ||| ((refCode c.ref).setWidth 8 <<< 6) ||| ((justCode c.just).setWidth 8 <<< 5) := by
  have hfields : (muxInit c).map Prod.fst = [.refs, .just] := rfl
  have hmask : ~~~ fieldsMask [.refs, .just] = 0x1F#8 := by decide
  rw [putFields_eq_or, hfields, hmask, muxInit, putFields_refs_just_zero, BitVec.or_assoc]

/-- INITCTL's write (R134): EN, the codes of IEN and PRESC, and START, ATEN and DONE as before. -/
theorem ctlInit_pattern (c : Cfg) (b : Byte) : putFields (ctlInit c) b =
    (b &&& 0x70#8) ||| 0x80#8 ||| ((ienCode c.mode).setWidth 8 <<< 3) ||| (prescCode c.presc).setWidth 8 := by
  have hfields : (ctlInit c).map Prod.fst = [.presc, .ien, .en] := rfl
  have hmask : ~~~ fieldsMask [.presc, .ien, .en] = 0x70#8 := by decide
  rw [putFields_eq_or, hfields, hmask, ctlInit, putFields_presc_ien_en_zero, ← BitVec.or_assoc, ← BitVec.or_assoc]

theorem selch_pattern (ch : BitVec 5) (b : Byte) :
    putFields [(.chsel, ch.setWidth 8)] b = (b &&& 0xE0#8) ||| ch.setWidth 8 := by
  have hmask : ~~~ fieldsMask [.chsel] = 0xE0#8 := by decide
  have hzero : putFields [(.chsel, ch.setWidth 8)] 0x00#8 = ch.setWidth 8 := by revert ch; decide
  rw [putFields_eq_or, List.map_singleton, hmask, hzero]

theorem trig_pattern (b : Byte) : putFields [(.start, 1#8), (.done, 0#8)] b = (b &&& 0xAF#8) ||| 0x40#8 :=
  putFields_eq_or _ b

theorem convDone_pattern (b : Byte) : putFields [(.start, 0#8), (.done, 1#8)] b = (b &&& 0xAF#8) ||| 0x10#8 :=
  putFields_eq_or _ b

theorem notify_pattern (b : Byte) : putFields [(.done, 0#8)] b = b &&& 0xEF#8 :=
  (putFields_eq_or _ b).trans (BitVec.or_zero)

end Sys2Proof.Machine
end

section
/-! PROOFS. INIT and READ, action by action: the states they pass through, and each of those states in terms of the
first (R132, R135). -/

namespace Sys2Proof.Machine

section
variable (s : State) (ch : BitVec 5) (raw : Sample)

/-- The state INITMUX leaves (R133). -/
def State.muxInitialised : State := (s.writeFields .muxctl (muxInit s.cfg)).setSeq S_INIT_CTL

/-- The state INITCTL leaves (R134). -/
def State.ctlInitialised : State := ((s.writeFields .ctlstat (ctlInit s.cfg)).emit .initDone).setSeq S_IDLE

/-- The state SELCH leaves (R150). -/
def State.selected : State := (s.writeFields .muxctl [(.chsel, s.irChannel)]).setSeq S_TRIGGER

/-- The state TRIG leaves (R161). -/
def State.triggered : State :=
  (((s.writeFields .ctlstat [(.start, 1#8), (.done, 0#8)]).setSig false).emit (.convStart s.chsel s.refs)).setSeq
    S_WAIT

/-- The state in which a READ has started its conversion: after ACCEPT, SELCH and TRIG (R135). -/
def State.readStarted : State := (s.take (readWord ch) S_SELECT).selected.triggered

/-- The state in which that conversion has been answered with the next raw value (R135, R167). -/
def State.readAnswered : State := (s.readStarted ch).afterRaw.delivered (s.readStarted ch).nextRaw

theorem State.muxInitialised_eq : s.muxInitialised =
    let m := putFields (muxInit s.cfg) s.muxctl
    { s with muxctl := m, seq := S_INIT_CTL, history := s.history ++ [.regWr .muxctl s.muxctl m] } := rfl

theorem State.ctlInitialised_eq : s.ctlInitialised =
    let c := putFields (ctlInit s.cfg) s.ctlstat
    { s with ctlstat := c, seq := S_IDLE, history := s.history ++ [.regWr .ctlstat s.ctlstat c, .initDone] } := by
  simp [State.ctlInitialised, State.writeFields, State.writeReg, State.setReg, State.emit, State.setSeq]

theorem State.selected_eq : s.selected =
    let m := (s.muxctl &&& 0xE0#8) ||| s.irChannel
    { s with muxctl := m, seq := S_TRIGGER, history := s.history ++ [.regWr .muxctl s.muxctl m] } := by
  rw [State.irChannel, ← selch_pattern]
  rfl

theorem State.triggered_eq : s.triggered =
    let c := (s.ctlstat &&& 0xAF#8) ||| 0x40#8
    { s with
      ctlstat := c, seq := S_WAIT, sig := false,
      history := s.history ++ [.regWr .ctlstat s.ctlstat c, .convStart s.chsel s.refs] } := by
  rw [← trig_pattern]
  simp [State.triggered, State.writeFields, State.writeReg, State.setReg, State.emit, State.setSeq, State.setSig]

/-- SELCH selects the channel of IR, and keeps REFS and JUST (R150, R152). -/
theorem State.selected_fields :
    s.selected.chsel = cmdArg s.ir ∧ s.selected.refs = s.refs ∧ s.selected.justBit = s.justBit := by
  obtain ⟨hrefs, hjust, hchsel⟩ := selch_writes (cmdArg s.ir) s.muxctl
  exact ⟨hchsel, congrArg (BitVec.setWidth 2) hrefs, congrArg (BitVec.setWidth 1) hjust⟩

theorem State.readStarted_eq : s.readStarted ch =
    let m := (s.muxctl &&& 0xE0#8) ||| ch.setWidth 8
    let c := (s.ctlstat &&& 0xAF#8) ||| 0x40#8
    { s with
      ir := readWord ch, muxctl := m, ctlstat := c, seq := S_WAIT, sig := false, cmdPort := none,
      history := s.history ++
        [.cmd (readWord ch), .regWr .muxctl s.muxctl m, .regWr .ctlstat s.ctlstat c, .convStart ch s.refs] } := by
  obtain ⟨hchsel, hrefs, -⟩ := (s.take (readWord ch) S_SELECT).selected_fields
  have hch : (s.take (readWord ch) S_SELECT).irChannel = ch.setWidth 8 :=
    congrArg (BitVec.setWidth 8) (cmdArg_readWord ch)
  have hch' : cmdArg (s.take (readWord ch) S_SELECT).ir = ch := cmdArg_readWord ch
  rw [State.readStarted, State.triggered_eq, hchsel, hrefs, hch', State.selected_eq, hch]
  simp [State.take, State.setIr, State.emit, State.setSeq, State.setPort, State.refs]

theorem State.delivered_eq : s.delivered raw =
    let d := latch s.justBit raw
    let c := (s.ctlstat &&& 0xAF#8) ||| 0x10#8
    { s with
      dataHi := d.1, dataLo := d.2, ctlstat := c,
      history := s.history ++
        [.convDone raw, .regWr .dataHi s.dataHi d.1, .regWr .dataLo s.dataLo d.2, .regWr .ctlstat s.ctlstat c] } := by
  rw [← convDone_pattern]
  simp [State.delivered, State.writeFields, State.writeReg, State.setReg, State.emit]

theorem takeCompletionInterrupt_eq : takeCompletionInterrupt s =
    let c := s.ctlstat &&& 0xEF#8
    { s with
      ctlstat := c, captHi := s.dataHi, captLo := s.dataLo, sig := true,
      history := s.history ++ [.regWr .ctlstat s.ctlstat c, .notify] } := by
  rw [← notify_pattern]
  simp [takeCompletionInterrupt, State.writeFields, State.writeReg, State.setReg, State.emit, State.setCapt,
    State.setSig]

@[simp] theorem State.triggered_muxctl : s.triggered.muxctl = s.muxctl := rfl

theorem State.readStarted_justBit : (s.readStarted ch).justBit = s.justBit := by
  rw [State.readStarted, State.justBit, State.triggered_muxctl]
  exact (s.take (readWord ch) S_SELECT).selected_fields.2.2

/-- What taking a raw value leaves of the model's own list and counter depends on these alone. -/
theorem State.afterRaw_draws {t : State} (ha : t.answers = s.answers) (hd : t.drawn = s.drawn) :
    t.afterRaw.answers = s.afterRaw.answers ∧ t.afterRaw.drawn = s.afterRaw.drawn := by
  cases h : s.answers <;> simp [State.afterRaw, ha, hd, h]

theorem State.afterRaw_justBit : s.afterRaw.justBit = s.justBit := by simp [State.justBit]

theorem State.readAnswered_eq : s.readAnswered ch =
    let m := (s.muxctl &&& 0xE0#8) ||| ch.setWidth 8
    let c1 := (s.ctlstat &&& 0xAF#8) ||| 0x40#8
    let c2 := (s.ctlstat &&& 0xAF#8) ||| 0x10#8
    let d := latch s.justBit s.nextRaw
    { s.afterRaw with
      ir := readWord ch, muxctl := m, ctlstat := c2, dataHi := d.1, dataLo := d.2, seq := S_WAIT, sig := false,
      cmdPort := none,
      history := s.history ++
        [.cmd (readWord ch), .regWr .muxctl s.muxctl m, .regWr .ctlstat s.ctlstat c1, .convStart ch s.refs,
          .convDone s.nextRaw, .regWr .dataHi s.dataHi d.1, .regWr .dataLo s.dataLo d.2, .regWr .ctlstat c1 c2] } := by
  obtain ⟨hanswers, hdrawn⟩ :=
    s.afterRaw_draws (t := s.readStarted ch) (by rw [State.readStarted_eq]) (by rw [State.readStarted_eq])
  have hjust : (s.readStarted ch).afterRaw.justBit = s.justBit :=
    ((s.readStarted ch).afterRaw_justBit).trans (s.readStarted_justBit ch)
  have hraw : (s.readStarted ch).nextRaw = s.nextRaw := by simp [State.nextRaw, State.readStarted_eq]
  have hstatus (b : Byte) : ((b &&& 0xAF#8) ||| 0x40#8) &&& 0xAF#8 = b &&& 0xAF#8 := by revert b; decide
  rw [State.readAnswered, State.delivered_eq, hjust, hraw]
  rw [State.readStarted_eq] at hanswers hdrawn
  simp [hanswers, hdrawn, State.readStarted_eq, hstatus]

/-- Assemble undoes Latch where both follow the configured justification, but for the two bits the left form drops
(R135, R180, R181). -/
theorem assemble_latch (j : Just) :
    assemble j (latch (justCode j) raw).1 (latch (justCode j) raw).2 = sampleOf j raw := by
  cases j with
  | right =>
    ext i hi
    by_cases hlo : i < 8
    · simp [assemble, latch, justCode, sampleOf, hlo, BitVec.getLsbD_eq_getElem hi]
    · obtain rfl | rfl : i = 8 ∨ i = 9 := by omega
      · simp [assemble, latch, justCode, sampleOf]
      · simp [assemble, latch, justCode, sampleOf]
  | left =>
    ext i hi
    have hhi (h : raw.getLsbD (2 + i) = true) : i < 8 := by
      have hlt := BitVec.lt_of_getLsbD h
      omega
    simpa [assemble, latch, justCode, sampleOf] using hhi

variable {s raw}

/-- RET returns what was latched for the configured justification: from the data registers when polled ... -/
theorem sample_polled {j : Just} (hm : s.cfg.mode = .polled) (hj : s.cfg.just = j)
    (hd : (s.dataHi, s.dataLo) = latch (justCode j) raw) : s.sample = sampleOf j raw := by
  rw [State.sample, State.resultHalves, hm, assembleRoutine, hj]
  exact hd ▸ assemble_latch raw j

/-- ... and from the capture slot in interrupt mode (R182). -/
theorem sample_interrupt {j : Just} (hm : s.cfg.mode = .interrupt) (hj : s.cfg.just = j)
    (hd : (s.captHi, s.captLo) = latch (justCode j) raw) : s.sample = sampleOf j raw := by
  rw [State.sample, State.resultHalves, hm, assembleRoutine, hj]
  exact hd ▸ assemble_latch raw j

end

end Sys2Proof.Machine
end

section
/-! PROOFS. INIT and READ carried out to their end by an idle block (R132, R135). -/

namespace Sys2Proof.Machine

section
variable {s t : State} {ch : BitVec 5}

/-- A command that an idle block carries out has been accepted (R131). -/
theorem carryOut_accepted {w : Byte} {rest : State → Result} (hq : s.seq = S_IDLE)
    (h : carryOut w rest s = .next t) : s.cfg.trig = .disabled ∧
      ((decodeCommand w = .instr .init ∧ s.en = false) ∨ (w ≠ initWord ∧ s.en = true)) := by
  obtain ⟨hbusy, -⟩ | ⟨-, m, ha, -⟩ := carryOut_cases h
  · exact absurd hq hbusy
  · obtain ⟨ht, ⟨hd, he, -⟩ | ⟨c, hd, he, -⟩⟩ := acceptWord_cases ha
    · exact ⟨ht, .inl ⟨hd, he⟩⟩
    · refine ⟨ht, .inr ⟨?_, he⟩⟩
      rintro rfl
      cases hd

theorem execInit_accepted (hq : s.seq = S_IDLE) (h : execInit s = .next t) :
    s.cfg.trig = .disabled ∧ s.en = false := by
  obtain ⟨ht, ⟨-, he⟩ | ⟨hne, -⟩⟩ := carryOut_accepted hq h
  · exact ⟨ht, he⟩
  · exact absurd rfl hne

theorem execRead_accepted (hq : s.seq = S_IDLE) (h : execRead ch s = .next t) :
    s.cfg.trig = .disabled ∧ s.en = true := by
  obtain ⟨ht, ⟨hd, -⟩ | ⟨-, he⟩⟩ := carryOut_accepted hq h
  · exact absurd (eq_zero_of_decodeCommand_init hd) (readWord_ne_zero ch)
  · exact ⟨ht, he⟩

theorem execInit_final (hq : s.seq = S_IDLE) (ht : s.cfg.trig = .disabled) (he : s.en = false) :
    execInit s = .next (s.take initWord S_INIT_MUX).muxInitialised.ctlInitialised := by
  rw [execInit_idle hq ht he]
  rfl

/-- TRIG starts the conversion of an enabled block (R37, R161), and leaves IEN. -/
theorem readStarted_status (s : State) (ch : BitVec 5) : (s.readStarted ch).en = s.en ∧
    (s.readStarted ch).ien = s.ien ∧ (s.readStarted ch).start = true := by
  have hctl : (s.readStarted ch).ctlstat = putFields [(.start, 1#8), (.done, 0#8)] s.ctlstat := by
    rw [State.readStarted_eq, trig_pattern]
  obtain ⟨-, hen, hien, -⟩ := State.statusWrite_fields (by decide) hctl
  have hstart := (trigWrite_bits s.ctlstat).1
  rw [← hctl] at hstart
  exact ⟨hen, hien, hstart⟩

theorem readStarted_inFlight (he : s.en = true) : (s.readStarted ch).inFlight = true := by
  obtain ⟨hen, -, hstart⟩ := readStarted_status s ch
  rw [State.inFlight, hen, he, hstart]
  rfl

/-- CONV_DONE ends it: START = 0, DONE = 1 (R167). -/
theorem readAnswered_status (s : State) (ch : BitVec 5) : (s.readAnswered ch).start = false ∧
    (s.readAnswered ch).done = true ∧ (s.readAnswered ch).ien = s.ien := by
  have hctl : (s.readAnswered ch).ctlstat = putFields [(.start, 0#8), (.done, 1#8)] (s.readStarted ch).ctlstat :=
    (State.delivered_ctlstat _ _).trans (by rw [State.afterRaw_ctlstat])
  obtain ⟨hstart, hdone⟩ := convDoneWrite_bits (s.readStarted ch).ctlstat
  rw [← hctl] at hstart hdone
  obtain ⟨-, -, hien, -⟩ := State.statusWrite_fields (by decide) hctl
  obtain ⟨-, hienStarted, -⟩ := readStarted_status s ch
  exact ⟨hstart, hdone, hien.trans hienStarted⟩

theorem readAnswered_wait (s : State) (ch : BitVec 5) :
    (s.readAnswered ch).seq = S_WAIT ∧ (s.readAnswered ch).cfg.mode = s.cfg.mode := by
  rw [State.readAnswered_eq]
  exact ⟨rfl, congrArg Cfg.mode s.afterRaw_cfg⟩

/-- With IEN = 1 the completion is pending (R37, R198). -/
theorem readAnswered_irqPending (hi : s.ien = true) : (s.readAnswered ch).irqPending = true := by
  obtain ⟨-, hdone, hien⟩ := readAnswered_status s ch
  rw [State.irqPending, hdone, hien, hi]
  rfl

theorem convDone_readStarted (he : s.en = true) : converterAnswers (s.readStarted ch) = .next (s.readAnswered ch) :=
  execConvDone_enabled ((State.afterRaw_inFlight _).trans (readStarted_inFlight he))

theorem finishWait_polled (hm : s.cfg.mode = .polled) : finishWait s = execWaitp s := by simp [finishWait, hm]

theorem finishWait_interrupt (hm : s.cfg.mode = .interrupt) :
    finishWait s = andThen (execNotify s) execWaiti := by simp [finishWait, hm]

/-- A READ taken by an idle enabled block runs to the answer of the converter, and then to the end of the wait. -/
theorem execRead_idle (hq : s.seq = S_IDLE) (ht : s.cfg.trig = .disabled) (he : s.en = true) (hc : ch.toNat ≤ 7) :
    execRead ch s = andThen (finishWait (s.readAnswered ch)) execRet := by
  have haccept : acceptWord (readWord ch) (s.setPort (some (readWord ch))) =
      .next (s.take (readWord ch) S_SELECT) := acceptWord_read ht (isReadWord_readWord hc) he
  rw [execRead, carryOut_idle hq, haccept, andThen_next, execSelch_enabled rfl, andThen_next, execTrig_enabled rfl,
    andThen_next]
  exact congrArg (andThen · fun s => andThen (finishWait s) execRet) (convDone_readStarted he)

theorem execRead_polled (hq : s.seq = S_IDLE) (ht : s.cfg.trig = .disabled) (he : s.en = true) (hc : ch.toNat ≤ 7)
    (hm : s.cfg.mode = .polled) : execRead ch s = .next ((s.readAnswered ch).setSeq S_READY).returned := by
  obtain ⟨hwait, hmode⟩ := readAnswered_wait s ch
  have hm' := hmode.trans hm
  have hdone : (s.readAnswered ch).start = false := (readAnswered_status s ch).1
  rw [execRead_idle hq ht he hc, finishWait_polled hm', execWaitp_leaves hwait hm' hdone, andThen_next]
  exact execRet_enabled rfl

theorem execRead_interrupt (hq : s.seq = S_IDLE) (ht : s.cfg.trig = .disabled) (he : s.en = true)
    (hc : ch.toNat ≤ 7) (hm : s.cfg.mode = .interrupt) (hi : s.ien = true) : execRead ch s =
      .next (((takeCompletionInterrupt (s.readAnswered ch)).setSig false).setSeq S_READY).returned := by
  obtain ⟨hwait, hmode⟩ := readAnswered_wait s ch
  have hm' := hmode.trans hm
  have hwaiti : execWaiti (takeCompletionInterrupt (s.readAnswered ch)) =
      .next (((takeCompletionInterrupt (s.readAnswered ch)).setSig false).setSeq S_READY) :=
    execWaiti_enabled ((takeCompletionInterrupt_seq _).trans hwait) hm' rfl
  rw [execRead_idle hq ht he hc, finishWait_interrupt hm', execNotify_enabled (readAnswered_irqPending hi),
    andThen_next, hwaiti, andThen_next]
  exact execRet_enabled rfl

end

end Sys2Proof.Machine
end

section
/-! PROOFS. Where no agent has a step (R141): in S_IDLE without a word, and in the interrupt-mode wait without the
signal. -/

namespace Sys2Proof.Machine

section
variable {s : State}

/-- The SEQ agent of a legal state holds only in S_IDLE without a word, and in S_WAIT in interrupt mode without the
signal (R131, R163). -/
theorem seqEnabled_false_iff (hlegal : s.seq ≠ 7#3) : s.seqEnabled = false ↔
    (s.seq = S_IDLE ∧ s.cmdPort = none) ∨ (s.seq = S_WAIT ∧ s.cfg.mode = .interrupt ∧ s.sig = false) := by
  by_cases hidle : s.seq = S_IDLE
  · have hwait : S_IDLE ≠ S_WAIT := by decide
    simp [State.seqEnabled, State.cmdValid, hidle, hwait]
  by_cases hwait : s.seq = S_WAIT
  · have hidle' : S_WAIT ≠ S_IDLE := by decide
    cases hm : s.cfg.mode <;> simp [State.seqEnabled, hwait, hidle', hm]
  · simp [State.seqEnabled, hidle, hwait, hlegal]

/-- A host without a move and a free port: every word has been accepted. -/
theorem pending_nil (hp : s.cmdPort = none) (hh : s.hostEnabled = false) : s.pending = [] := by
  simpa [State.pending, State.hostEnabled, hp] using hh

/-- An idle block with every word accepted is at the end of its run: in S_IDLE nothing is in flight or pending. -/
theorem Inv.isFinal (h : Inv s) (hq : s.seq = S_IDLE) (hw : s.pending = []) : s.isFinal = true := by
  have hwait : s.seq ≠ S_WAIT := by rw [hq]; decide
  have hirq : s.irqPending = false := Bool.eq_false_iff.2 fun hp => hwait (h.waiting_of_irqPending hp).seq
  simp [State.isFinal, hq, hw, h.start_false hwait, hirq]

theorem isFinal_false (hq : s.seq ≠ S_IDLE) : s.isFinal = false := by simp [State.isFinal, hq]

theorem isStuckIfSilent_iff : s.isStuckIfSilent = true ↔
    s.isFinal = false ∧ s.hostEnabled = false ∧ s.seqEnabled = false ∧ s.irqPending = false := by
  simp [State.isStuckIfSilent, State.enabled, and_assoc]

/-- After INIT, IEN = 1 in interrupt mode (R118). -/
theorem Initialised.ien_of_interrupt (h : Initialised s) (hm : s.cfg.mode = .interrupt) : s.ien = true :=
  h.ctl.2.2 hm

/-- In the interrupt-mode wait a conversion that is complete is pending, so without the signal and without a pending
interrupt it is in flight, and conversely (R165, R170). -/
theorem Inv.interruptHold_iff (h : Inv s) (hq : s.seq = S_WAIT) (hm : s.cfg.mode = .interrupt) :
    s.sig = false ∧ s.irqPending = false ↔ s.start = true := by
  obtain ⟨hinit, -, hstage⟩ := h.waiting hq
  have hien : s.ien = true := hinit.ien_of_interrupt hm
  rw [State.irqPending, hien]
  rcases hstage with ⟨hs, hd, hg⟩ | ⟨hs, hd, hg⟩ | ⟨-, hs, hd, hg⟩ <;> simp [hs, hd, hg]

/-- The two readings of log 20 differ in whether the conversion in flight counts as a step of CONV. -/
theorem isStuck_iff : s.isStuck = true ↔ s.isStuckIfSilent = true ∧ s.inFlight = false := by
  grind [State.isStuck, State.isStuckIfSilent, State.enabled]

theorem Inv.stuckIfSilent_iff (h : Inv s) : s.isStuckIfSilent = true ↔
    s.seq = S_WAIT ∧ s.cfg.mode = .interrupt ∧ s.start = true ∧ s.hostEnabled = false := by
  rw [isStuckIfSilent_iff, seqEnabled_false_iff h.seqLegal]
  constructor
  · rintro ⟨hfinal, hhost, ⟨hq, hp⟩ | ⟨hq, hm, hg⟩, hirq⟩
    · simp [h.isFinal hq (pending_nil hp hhost)] at hfinal
    · exact ⟨hq, hm, (h.interruptHold_iff hq hm).1 ⟨hg, hirq⟩, hhost⟩
  · rintro ⟨hq, hm, hs, hhost⟩
    obtain ⟨hg, hirq⟩ := (h.interruptHold_iff hq hm).2 hs
    exact ⟨isFinal_false (by rw [hq]; decide), hhost, .inr ⟨hq, hm, hg⟩, hirq⟩

/-- A converter that answers has a step in the one state that a silent one leaves stuck. -/
theorem Inv.not_stuck (h : Inv s) : s.isStuck = false := by
  refine Bool.eq_false_iff.2 fun hstuck => ?_
  obtain ⟨hsilent, hquiet⟩ := isStuck_iff.1 hstuck
  obtain ⟨hq, -, hs, -⟩ := h.stuckIfSilent_iff.1 hsilent
  have hen := (h.waiting hq).initialised.en
  simp [State.inFlight, hen, hs] at hquiet

end

end Sys2Proof.Machine
end

section
/-! PROOFS. Runs by single steps: a schedule of turns that leads from one state to another, whatever follows it. -/

namespace Sys2Proof.Machine

/-- The state with the turns `ts` as its schedule. -/
def State.onSchedule (s : State) (ts : List Turn) : State := { s with turns := ts }

/-- The turns `ts` lead from `s` to `t` by single steps, whatever turns follow them. -/
def Leads (ts : List Turn) (s t : State) : Prop :=
  ∀ rest, Host.Core.run Sys2Proof.core ts.length (s.onSchedule (ts ++ rest)) = .next (t.onSchedule rest)

theorem run_one {M : Host.Core} {s t : M.State} (h : M.step s = .next t) : M.run 1 s = .next t := by
  simp [Host.Core.run, h]

/-- A run goes on from where its first steps lead. -/
theorem run_add {M : Host.Core} {k : Nat} (n : Nat) {s m : M.State} (h : M.run k s = .next m) :
    M.run (k + n) s = M.run n m := by
  induction k generalizing s with
  | zero =>
    cases h
    rw [Nat.zero_add]
  | succ k ih =>
    rw [Nat.succ_add]
    cases hstep : M.step s with
    | next s' =>
      simp only [Host.Core.run, hstep] at h ⊢
      exact ih h
    | fault f => simp [Host.Core.run, hstep] at h
    | refused why => simp [Host.Core.run, hstep] at h

section
variable {s m t : State} {ts us : List Turn}

theorem Leads.refl : Leads [] s s := fun _ => rfl

theorem Leads.trans (h : Leads ts s m) (h' : Leads us m t) : Leads (ts ++ us) s t := by
  intro rest
  rw [List.length_append, List.append_assoc, run_add _ (h (us ++ rest)), h' rest]

/-- A turn that changes nothing may be taken any number of times. -/
theorem Leads.replicate {turn : Turn} (h : Leads [turn] s s) (n : Nat) : Leads (List.replicate n turn) s s := by
  induction n with
  | zero => exact .refl
  | succ n ih => exact h.trans ih

/-- What lets a step run alike under every schedule: the invariant, and no response left over from the step before. -/
def Runs (s : State) : Prop := Inv s ∧ s.rsp = none

theorem Runs.moves (h : Runs s) (hm : Moves s t) : Runs t :=
  ⟨hm.keep Move.keeps_inv h.1, hm.rsp_eq.trans h.2⟩

theorem Runs.move (h : Runs s) (hm : Move s t) : Runs t := h.moves (.single hm)

/-- One step under a schedule is its first turn, run under the rest. -/
theorem Runs.step_onSchedule (h : Runs s) (turn : Turn) (rest : List Turn) :
    step (s.onSchedule (turn :: rest)) = runTurn turn (s.onSchedule rest) := by
  have hinv : Inv (s.onSchedule (turn :: rest)) := h.1.congr rfl rfl rfl rfl rfl rfl
  have hbegin : (s.onSchedule (turn :: rest)).beginStep = s.onSchedule rest := by
    simp [State.beginStep, State.afterTurn, State.setRsp, State.onSchedule, h.2]
  rw [step_eq_runTurn hinv.reservedValue_none, hbegin]
  rfl

theorem Runs.leads (h : Runs s) {turn : Turn}
    (hturn : ∀ rest, runTurn turn (s.onSchedule rest) = .next (t.onSchedule rest)) : Leads [turn] s t := by
  intro rest
  exact run_one ((h.step_onSchedule turn rest).trans (hturn rest))

/-! The turns of INIT and READ. -/

theorem Runs.leads_acceptInit (h : Runs s) (hq : s.seq = S_IDLE) (hp : s.cmdPort = some initWord)
    (ht : s.cfg.trig = .disabled) (he : s.en = false) : Leads [.seq] s (s.take initWord S_INIT_MUX) :=
  h.leads fun rest => (seqTurn_acceptWord (s := s.onSchedule rest) hq hp).trans (acceptWord_init ht he)

theorem Runs.leads_acceptRead (h : Runs s) {w : Byte} (hq : s.seq = S_IDLE) (hp : s.cmdPort = some w)
    (ht : s.cfg.trig = .disabled) (hr : IsReadWord w) (he : s.en = true) : Leads [.seq] s (s.take w S_SELECT) :=
  h.leads fun rest => (seqTurn_acceptWord (s := s.onSchedule rest) hq hp).trans (acceptWord_read ht hr he)

theorem Runs.leads_initmux (h : Runs s) (hq : s.seq = S_INIT_MUX) : Leads [.seq] s s.muxInitialised :=
  h.leads fun rest => (seqTurn_init_mux (s := s.onSchedule rest) hq).trans (execInitmux_enabled hq)

theorem Runs.leads_initctl (h : Runs s) (hq : s.seq = S_INIT_CTL) : Leads [.seq] s s.ctlInitialised :=
  h.leads fun rest => (seqTurn_init_ctl (s := s.onSchedule rest) hq).trans (execInitctl_enabled hq)

theorem Runs.leads_selch (h : Runs s) (hq : s.seq = S_SELECT) : Leads [.seq] s s.selected :=
  h.leads fun rest => (seqTurn_select (s := s.onSchedule rest) hq).trans (execSelch_enabled hq)

theorem Runs.leads_trig (h : Runs s) (hq : s.seq = S_TRIGGER) : Leads [.seq] s s.triggered :=
  h.leads fun rest => (seqTurn_trigger (s := s.onSchedule rest) hq).trans (execTrig_enabled hq)

/-- A poll with START = 1 changes nothing (R162, R165). -/
theorem Runs.leads_poll (h : Runs s) (hq : s.seq = S_WAIT) (hm : s.cfg.mode = .polled) (hs : s.start = true) :
    Leads [.seq] s s :=
  h.leads fun rest => ((seqTurn_wait_polled (s := s.onSchedule rest) hq hm).trans
    (execWaitp_polls hq hm hs)).trans (congrArg _ (State.setSeq_self hq))

theorem Runs.leads_leavePoll (h : Runs s) (hq : s.seq = S_WAIT) (hm : s.cfg.mode = .polled) (hs : s.start = false) :
    Leads [.seq] s (s.setSeq S_READY) :=
  h.leads fun rest => (seqTurn_wait_polled (s := s.onSchedule rest) hq hm).trans (execWaitp_leaves hq hm hs)

/-- Without the signal the SEQ agent holds in the interrupt-mode wait (R163, log 5). -/
theorem Runs.leads_hold (h : Runs s) (hq : s.seq = S_WAIT) (hm : s.cfg.mode = .interrupt) (hs : s.sig = false) :
    Leads [.seq] s s :=
  h.leads fun rest => (seqTurn_wait_interrupt (s := s.onSchedule rest) hq hm).trans (execWaiti_unsignalled hs)

theorem Runs.leads_leaveSignalled (h : Runs s) (hq : s.seq = S_WAIT) (hm : s.cfg.mode = .interrupt)
    (hs : s.sig = true) : Leads [.seq] s ((s.setSig false).setSeq S_READY) :=
  h.leads fun rest => (seqTurn_wait_interrupt (s := s.onSchedule rest) hq hm).trans (execWaiti_enabled hq hm hs)

/-- CONV_DONE neither reads nor changes the schedule. -/
theorem delivered_onSchedule (s : State) (raw : Sample) (rest : List Turn) :
    (s.onSchedule rest).delivered raw = (s.delivered raw).onSchedule rest := by
  simp [State.delivered_eq, State.onSchedule, State.justBit]

theorem afterRaw_onSchedule (s : State) (rest : List Turn) :
    (s.onSchedule rest).afterRaw = s.afterRaw.onSchedule rest := by
  cases h : s.answers <;> simp [State.afterRaw, State.onSchedule, h]

theorem Runs.leads_convDone (h : Runs s) (hf : s.inFlight = true) :
    Leads [.conv] s (s.afterRaw.delivered s.nextRaw) := by
  refine h.leads fun rest => ?_
  have hf' : (s.onSchedule rest).inFlight = true := hf
  have hexec : execConvDone s.nextRaw (s.afterRaw.onSchedule rest) =
      .next ((s.afterRaw.onSchedule rest).delivered s.nextRaw) :=
    execConvDone_enabled ((State.afterRaw_inFlight s).trans hf)
  rw [delivered_onSchedule] at hexec
  rw [runTurn, convTurn_enabled hf', afterRaw_onSchedule]
  exact hexec

theorem Runs.leads_notify (h : Runs s) (hp : s.irqPending = true) : Leads [.notify] s (takeCompletionInterrupt s) :=
  h.leads fun rest => (notifyTurn_eq (s.onSchedule rest)).trans (execNotify_enabled hp)

theorem Runs.leads_ret (h : Runs s) (hq : s.seq = S_READY) : Leads [.seq] s s.returned :=
  h.leads fun rest => (seqTurn_ready (s := s.onSchedule rest) hq).trans (execRet_enabled hq)

/-! The sequences of INIT and READ, turn by turn. -/

/-- The converter's answer to a READ. -/
theorem Runs.leads_readAnswered {ch : BitVec 5} (h : Runs (s.readStarted ch)) (he : s.en = true) :
    Leads [.conv] (s.readStarted ch) (s.readAnswered ch) ∧ Runs (s.readAnswered ch) := by
  have hf : (s.readStarted ch).inFlight = true := readStarted_inFlight he
  have hmoves : Moves (s.readStarted ch) (s.readAnswered ch) :=
    (State.afterRaw_moves _).tail (.convDone _ ((State.afterRaw_inFlight _).trans hf))
  exact ⟨h.leads_convDone hf, h.moves hmoves⟩

/-- INIT as three SEQ turns (R132). -/
theorem Runs.leads_init (h : Runs s) (hq : s.seq = S_IDLE) (hp : s.cmdPort = some initWord)
    (ht : s.cfg.trig = .disabled) (he : s.en = false) :
    Leads [.seq, .seq, .seq] s (s.take initWord S_INIT_MUX).muxInitialised.ctlInitialised := by
  have haccepted : Runs (s.take initWord S_INIT_MUX) := h.move (.acceptInit hq rfl he)
  have hmux : Runs (s.take initWord S_INIT_MUX).muxInitialised := haccepted.move (.initmux rfl)
  exact ((h.leads_acceptInit hq hp ht he).trans (haccepted.leads_initmux rfl)).trans (hmux.leads_initctl rfl)

section
variable {ch : BitVec 5} (h : Runs s) (hq : s.seq = S_IDLE) (hp : s.cmdPort = some (readWord ch))
  (ht : s.cfg.trig = .disabled) (he : s.en = true) (hc : ch.toNat ≤ 7)
include h hq hp ht he hc

/-- ACCEPT, SELCH and TRIG of a READ. -/
theorem Runs.leads_readStarted :
    Leads [.seq, .seq, .seq] s (s.readStarted ch) ∧ Runs (s.readStarted ch) := by
  have haccepted : Runs (s.take (readWord ch) S_SELECT) := h.move (.acceptRead hq (decodeCommand_readWord hc) he)
  have hselected : Runs (s.take (readWord ch) S_SELECT).selected := haccepted.move (.selch rfl)
  exact ⟨((h.leads_acceptRead hq hp ht (isReadWord_readWord hc) he).trans (haccepted.leads_selch rfl)).trans
    (hselected.leads_trig rfl), hselected.move (.trig rfl)⟩

/-- A polled READ, with any number of polls before the converter's answer (R135). -/
theorem Runs.leads_polledRead (hm : s.cfg.mode = .polled) (polls : Nat) :
    Leads (polledReadTurns polls) s ((s.readAnswered ch).setSeq S_READY).returned := by
  obtain ⟨hstart, hstarted⟩ := h.leads_readStarted hq hp ht he hc
  obtain ⟨hanswer, hanswered⟩ := hstarted.leads_readAnswered he
  obtain ⟨hwait, hmode⟩ := readAnswered_wait s ch
  obtain ⟨-, -, hconverting⟩ := readStarted_status s ch
  obtain ⟨hdone, -, -⟩ := readAnswered_status s ch
  have hpoll := hstarted.leads_poll rfl hm hconverting
  have hleave := hanswered.leads_leavePoll hwait (hmode.trans hm) hdone
  have hready := hanswered.move (.leavePoll hwait (hmode.trans hm) hdone)
  exact hstart.trans ((hpoll.replicate polls).trans (hanswer.trans (hleave.trans (hready.leads_ret rfl))))

/-- An interrupt-driven READ, with any hold of the SEQ agent before the converter's answer and before the notifier
(R135, R163). -/
theorem Runs.leads_interruptRead (hm : s.cfg.mode = .interrupt) (hi : s.ien = true) (j k : Nat) :
    Leads (interruptReadTurns j k) s
      (((takeCompletionInterrupt (s.readAnswered ch)).setSig false).setSeq S_READY).returned := by
  obtain ⟨hstart, hstarted⟩ := h.leads_readStarted hq hp ht he hc
  obtain ⟨hanswer, hanswered⟩ := hstarted.leads_readAnswered he
  obtain ⟨hwait, hmode⟩ := readAnswered_wait s ch
  have hpending : (s.readAnswered ch).irqPending = true := readAnswered_irqPending hi
  have hunsignalled : (s.readAnswered ch).sig = false := by rw [State.readAnswered_eq]
  have hholdStarted := hstarted.leads_hold rfl hm rfl
  have hholdAnswered := hanswered.leads_hold hwait (hmode.trans hm) hunsignalled
  have hnotify := hanswered.leads_notify hpending
  have hsignalled := hanswered.move (.notify hpending)
  have hwait' := (takeCompletionInterrupt_seq (s.readAnswered ch)).trans hwait
  have hmode' : (takeCompletionInterrupt (s.readAnswered ch)).cfg.mode = .interrupt := hmode.trans hm
  have hleave := hsignalled.leads_leaveSignalled hwait' hmode' rfl
  have hready := hsignalled.move (.leaveSignalled hwait' hmode' rfl)
  exact hstart.trans ((hholdStarted.replicate j).trans (hanswer.trans ((hholdAnswered.replicate k).trans
    (hnotify.trans (hleave.trans (hready.leads_ret rfl))))))

end

/-- Where the turns that a state has on its schedule lead, the run of that length ends. -/
theorem Leads.run {rest : List Turn} {n : Nat} (h : Leads ts s t) (hts : s.turns = ts ++ rest) (hn : n = ts.length) :
    Host.Core.run Sys2Proof.core n s = .next { t with turns := rest } := by
  have hrun := h rest
  rw [← hts, ← hn] at hrun
  exact hrun

end

end Sys2Proof.Machine
end

section
/-! PROOFS. The statements of the sequencer family. -/

namespace Sys2Proof.Machine

/-- Settles O47: the state has no reserved value, and of what is run only ACCEPT can refuse, which meets INIT or READ
where the duties let it come. -/
theorem dutifulHostIsNeverRefused : Obligations.DutifulHostIsNeverRefused := by
  intro s hi hd hr
  rw [step_eq_runTurn hi.reservedValue_none]
  exact runTurn_keeps_duties hr hd.beginStep

/-- Settles O11: writes to fields made again change nothing, and the two micro-operations make those of R138. -/
theorem initWritesAreIdempotent : Obligations.InitWritesAreIdempotent := by
  have hidem (cfg : Cfg) (regs : Byte × Byte) : initWrites cfg (initWrites cfg regs) = initWrites cfg regs :=
    Prod.ext (putFields_idem _ _) (putFields_idem _ _)
  refine ⟨fun s hq => ?_, hidem⟩
  exact ⟨s.muxInitialised, s.muxInitialised.ctlInitialised, execInitmux_enabled hq, execInitctl_enabled rfl, rfl,
    _, _, execInitmux_enabled rfl, execInitctl_enabled rfl, hidem s.cfg (s.muxctl, s.ctlstat)⟩

/-- Settles O12: ACCEPT is enabled, and its body decides case by case. -/
theorem acceptFollowsItsRule : Obligations.AcceptFollowsItsRule := by
  intro s w hq hp
  rw [exec, execAccept_enabled hq hp]
  refine ⟨acceptWord_autoTrigger w, fun ht => ⟨acceptWord_reserved ht, ?_, ?_, ?_, ?_⟩⟩
  · rintro rfl he
    exact acceptWord_reInitialize ht he
  · rintro rfl he
    exact acceptWord_init ht he
  · exact fun hlo hhi he => acceptWord_readBeforeInitialize ht ⟨hlo, hhi⟩ he
  · exact fun hlo hhi he => acceptWord_read ht ⟨hlo, hhi⟩ he

/-- Settles O13: INITMUX is enabled, and its write keeps the bits outside REFS and JUST. -/
theorem initmuxWritesReferenceAndJustification : Obligations.InitmuxWritesReferenceAndJustification := by
  intro s hq
  rw [← muxInit_pattern]
  exact execInitmux_enabled hq

/-- Settles O14: INITCTL is enabled, and its write keeps the bits outside PRESC, IEN and EN. -/
theorem initctlWritesPrescalerAndEnables : Obligations.InitctlWritesPrescalerAndEnables := by
  intro s hq
  rw [← ctlInit_pattern]
  exact (execInitctl_enabled hq).trans (congrArg _ s.ctlInitialised_eq)

/-- Settles O22: ACCEPT, INITMUX and INITCTL in a row. -/
theorem initHasItsNetEffect : Obligations.InitHasItsNetEffect := by
  intro s ht hq he
  rw [← muxInit_pattern, ← ctlInit_pattern]
  refine (execInit_final hq ht he).trans ?_
  rw [State.ctlInitialised_eq, State.muxInitialised_eq]
  simp [State.take, State.setIr, State.emit, State.setSeq, State.setPort, initWord, hq]

/-- Settles O23: after the converter's answer the poll finds START = 0, and RET assembles what was latched. -/
theorem polledReadHasItsNetEffect : Obligations.PolledReadHasItsNetEffect := by
  intro s ch ht hm hq he _ hj hc
  have hsample : ((s.readAnswered ch).setSeq S_READY).sample = sampleOf s.cfg.just s.nextRaw := by
    rw [State.readAnswered_eq]
    exact sample_polled (s.afterRaw_cfg ▸ hm) (by simp) (by simp [hj])
  refine (execRead_polled hq ht he hc hm).trans ?_
  rw [State.returned, hsample, State.readAnswered_eq]
  simp [State.setRsp, State.setSeq, State.emit, readWord, hq]

/-- Settles O24: the notifier captures what was latched and signals, and RET assembles the captured halves. -/
theorem interruptReadHasItsNetEffect : Obligations.InterruptReadHasItsNetEffect := by
  intro s ch ht hm hq he _ hi hj hc
  have hsample : (((takeCompletionInterrupt (s.readAnswered ch)).setSig false).setSeq S_READY).sample =
      sampleOf s.cfg.just s.nextRaw := by
    rw [takeCompletionInterrupt_eq, State.readAnswered_eq]
    exact sample_interrupt (s.afterRaw_cfg ▸ hm) (by simp) (by simp [hj])
  have hdone (b : Byte) : ((b &&& 0xAF#8) ||| 0x10#8) &&& 0xEF#8 = b &&& 0xAF#8 := by revert b; decide
  refine (execRead_interrupt hq ht he hc hm hi).trans ?_
  rw [State.returned, hsample, takeCompletionInterrupt_eq, State.readAnswered_eq]
  simp [State.setRsp, State.setSig, State.setSeq, State.emit, readWord, hq, hdone]

/-- Settles O59: without a word and without a pending interrupt, a wait without the signal is one whose conversion is
in flight. -/
theorem silentConverterLeavesExactlyTheInterruptHold : Obligations.SilentConverterLeavesExactlyTheInterruptHold :=
  fun _ hi => hi.stuckIfSilent_iff

/-- Settles O48: in the only state that a silent converter leaves stuck, CONV is enabled. -/
theorem noReachableStateIsStuck : Obligations.NoReachableStateIsStuck := fun _ hi => hi.not_stuck

/-- Settles O54: ACCEPT, INITMUX and INITCTL are one SEQ turn each. -/
theorem initFinishesInThreeSteps : Obligations.InitFinishesInThreeSteps := by
  intro s t rest hi hq hp hr h hts
  obtain ⟨ht, he⟩ := execInit_accepted hq h
  obtain rfl := Host.Outcome.next.inj ((execInit_final hq ht he).symm.trans h)
  exact (Runs.leads_init ⟨hi, hr⟩ hq hp ht he).run hts rfl

/-- Settles O52: polls with START = 1 change nothing, and the one after the converter's answer leaves the wait. -/
theorem polledReadBySmallStepsIsTheCommand : Obligations.PolledReadBySmallStepsIsTheCommand := by
  intro polls s t ch rest hi hq hm hp hc hr h hts
  obtain ⟨ht, he⟩ := execRead_accepted hq h
  obtain rfl := Host.Outcome.next.inj ((execRead_polled hq ht he hc hm).symm.trans h)
  exact (Runs.leads_polledRead ⟨hi, hr⟩ hq hp ht he hc hm polls).run hts (by simp [polledReadTurns])

/-- Settles O53: the SEQ agent's turns change nothing until the notifier has signalled, and the two events do not wait
for them. -/
theorem interruptReadBySmallStepsIsTheCommand : Obligations.InterruptReadBySmallStepsIsTheCommand := by
  intro j k s t ch rest hi hq hm hp hc hr h hts
  obtain ⟨ht, he⟩ := execRead_accepted hq h
  have hien : s.ien = true := (hi.initialised he).ien_of_interrupt hm
  obtain rfl := Host.Outcome.next.inj ((execRead_interrupt hq ht he hc hm hien).symm.trans h)
  exact (Runs.leads_interruptRead ⟨hi, hr⟩ hq hp ht he hc hm hien j k).run hts
    (by simp [interruptReadTurns]; omega)

end Sys2Proof.Machine
end

section
/-! PROOFS. The statements of the channel multiplexer family. -/

namespace Sys2Proof.Machine

/-- The operand of SELCH as a mask of IR (R150). -/
theorem State.irChannel_eq_and (s : State) : s.irChannel = s.ir &&& 0x1F#8 := by
  have hmask (w : Byte) : (cmdArg w).setWidth 8 = w &&& 0x1F#8 := by revert w; decide
  exact hmask s.ir

/-- Settles O15: SELCH is enabled, and its write keeps the bits outside CHSEL. -/
theorem selchReplacesTheChannelOnly : Obligations.SelchReplacesTheChannelOnly := by
  intro s hq
  rw [← s.irChannel_eq_and]
  exact (execSelch_enabled hq).trans (congrArg _ s.selected_eq)

end Sys2Proof.Machine
end

section
/-! PROOFS. The freshness of the result (R172, R186, R232) along a step, and the sample RET makes of it. -/

namespace Sys2Proof.Machine

/-! The answer to the conversion started last, after each event that touches it. -/

/-- CONV_DONE answers the conversion, and its register writes leave that answer (R167). -/
theorem State.delivered_lastAnswer (s : State) (raw : Sample) :
    lastAnswer (s.delivered raw).history = some raw := by
  simp [State.delivered, lastAnswer, answerAfter]

/-- NOTIFY's events start and answer nothing (R169). -/
theorem takeCompletionInterrupt_lastAnswer (s : State) :
    lastAnswer (takeCompletionInterrupt s).history = lastAnswer s.history := by
  simp [takeCompletionInterrupt, lastAnswer, answerAfter]

theorem State.delivered_data (s : State) (raw : Sample) :
    ((s.delivered raw).dataHi, (s.delivered raw).dataLo) = latch (s.delivered raw).justBit raw := by
  have hjust : (s.delivered raw).justBit = s.justBit := by simp [State.justBit]
  rw [hjust, State.delivered_eq]

section
variable {s t : State}

theorem Fresh.beginStep (h : Fresh s) : Fresh s.beginStep := by
  unfold State.beginStep State.afterTurn
  split <;> exact ⟨h.data, h.captured⟩

/-- Outside S_WAIT and S_READY no result is due. -/
theorem Inv.fresh_of_no_result (h : Inv s) (hw : s.seq ≠ S_WAIT) (hr : s.seq ≠ S_READY) : Fresh s where
  data := by
    rintro (⟨hq, -⟩ | hq)
    · exact absurd hq hw
    · exact absurd hq hr
  captured := by
    rintro - (hs | hq)
    · exact absurd (h.sigOnlyInWait hs).1 hw
    · exact absurd hq hr

/-- While the conversion is in flight it is neither signalled nor past its wait. -/
theorem Inv.not_signalled_of_start (h : Inv s) (hs : s.start = true) : ¬ (s.sig = true ∨ s.seq = S_READY) := by
  rintro (hg | hq)
  · simp [h.signalLast hg] at hs
  · rw [h.startOnlyInWait hs] at hq
    exact absurd hq (by decide)

/-- While the conversion is in flight no result is due. -/
theorem Inv.fresh_of_start (h : Inv s) (hs : s.start = true) : Fresh s where
  data := by
    rintro (⟨-, hs'⟩ | hq)
    · simp [hs] at hs'
    · exact absurd (.inr hq) (h.not_signalled_of_start hs)
  captured _ hg := absurd hg (h.not_signalled_of_start hs)

/-- CONV_DONE brings the result into the data registers, and nothing is signalled yet (R167, R172). -/
theorem Inv.fresh_convDone (h : Inv s) (hf : s.inFlight = true) (raw : Sample) : Fresh (s.delivered raw) where
  data _ := ⟨raw, s.delivered_lastAnswer raw, s.delivered_data raw⟩
  captured _ := by
    rw [State.delivered_sig, State.delivered_seq]
    exact fun hg => absurd hg (h.not_signalled_of_start (Bool.and_eq_true_iff.1 hf).2)

/-- NOTIFY captures the result it finds in the data registers (R169, R186). -/
theorem Fresh.notify (h : Fresh s) (hi : Inv s) (hp : s.irqPending = true) :
    Fresh (takeCompletionInterrupt s) where
  data _ := by
    have hd : s.done = true := (Bool.and_eq_true_iff.1 hp).1
    have hs : s.start = false := Bool.eq_false_iff.2 fun hs => hi.startDoneApart ⟨hs, hd⟩
    rw [takeCompletionInterrupt_lastAnswer]
    exact h.data (.inl ⟨(hi.waiting_of_irqPending hp).seq, hs⟩)
  captured _ _ := rfl

theorem Fresh.leavePoll (h : Fresh s) (hq : s.seq = S_WAIT) (hm : s.cfg.mode = .polled) (hs : s.start = false) :
    Fresh (s.setSeq S_READY) where
  data _ := h.data (.inl ⟨hq, hs⟩)
  captured hm' := absurd (hm.symm.trans hm') (by decide)

theorem Fresh.leaveSignalled (h : Fresh s) (hi : Inv s) (hg : s.sig = true) :
    Fresh ((s.setSig false).setSeq S_READY) where
  data _ := h.data (.inl ⟨(hi.sigOnlyInWait hg).1, (hi.signalLast hg).1⟩)
  captured hm _ := h.captured hm (.inl hg)

theorem Move.keeps_fresh (hmove : Move s t) (hi : Inv s) (h : Fresh s) : Fresh t := by
  have hi' := hmove.keeps_inv hi
  cases hmove with
  | outside => exact ⟨h.data, h.captured⟩
  | trig => exact hi'.fresh_of_start (trigWrite_bits s.ctlstat).1
  | leavePoll hq hm hs => exact h.leavePoll hq hm hs
  | leaveSignalled _ _ hg => exact h.leaveSignalled hi hg
  | convDone raw hf => exact hi.fresh_convDone hf raw
  | notify hp => exact h.notify hi hp
  | _ => exact hi'.fresh_of_no_result (of_decide_eq_true rfl) (of_decide_eq_true rfl)

theorem step_keeps_fresh (hi : Inv s) (h : Fresh s) (hstep : step s = .next t) : Fresh t := by
  have hi' := step_keeps_inv hi hstep
  rcases step_acts hstep with ⟨-, rfl⟩ | ⟨-, hacts⟩
  · exact hi'.fresh_of_no_result (by decide : S_IDLE ≠ S_WAIT) (by decide : S_IDLE ≠ S_READY)
  · have hmove {a b : State} (hm : Move a b) (ha : Inv a ∧ Fresh a) : Inv b ∧ Fresh b :=
      ⟨hm.keeps_inv ha.1, hm.keeps_fresh ha.1 ha.2⟩
    have hret {a : State} (hq : a.seq = S_READY) (ha : Inv a ∧ Fresh a) : Inv a.returned ∧ Fresh a.returned := by
      have hinv := (ha.1.atRest_of_seq (.inr (.inr hq))).returned.inv
      exact ⟨hinv, hinv.fresh_of_no_result (by decide : S_IDLE ≠ S_WAIT) (by decide : S_IDLE ≠ S_READY)⟩
    exact (hacts.keep hmove hret ⟨hi.beginStep, h.beginStep⟩).2

/-- In S_READY the sample is that of the conversion started last (R172, R188). -/
theorem Fresh.sample_of_ready (h : Fresh s) (hi : Inv s) (hq : s.seq = S_READY) :
    ∃ raw, lastAnswer s.history = some raw ∧ s.sample = sampleOf s.cfg.just raw := by
  obtain ⟨raw, hraw, hdata⟩ := h.data (.inr hq)
  have hjust := (hi.atRest_of_seq (.inr (.inr hq))).initialised.mux.2
  rw [hjust] at hdata
  refine ⟨raw, hraw, ?_⟩
  cases hm : s.cfg.mode with
  | polled => exact sample_polled hm rfl hdata
  | interrupt => exact sample_interrupt hm rfl ((h.captured hm (.inr hq)).trans hdata)

end

end Sys2Proof.Machine
end

section
/-! PROOFS. Latch as a function of the registers (R84, R180). -/

namespace Sys2Proof.Machine

/-- JUST as a mask of MUXCTL (R84). -/
theorem State.justBit_eq_zero_iff (s : State) : s.justBit = 0#1 ↔ s.muxctl &&& 0x20#8 = 0#8 := by
  have hmask (b : Byte) : (fieldGet .just b).setWidth 1 = 0#1 ↔ b &&& 0x20#8 = 0#8 := by revert b; decide
  exact hmask s.muxctl

/-- Latch by shifts of the raw value, chosen by the JUST bit of MUXCTL (R180). -/
theorem State.latch_justBit (s : State) (raw : Sample) : latch s.justBit raw =
    (if s.muxctl &&& 0x20#8 = 0#8 then (raw >>> 8).setWidth 8 else (raw >>> 2).setWidth 8,
      if s.muxctl &&& 0x20#8 = 0#8 then raw.setWidth 8 else raw.setWidth 8 <<< 6) := by
  by_cases h : s.muxctl &&& 0x20#8 = 0#8
  · have hhi : (raw.extractLsb' 8 2).setWidth 8 = (raw >>> 8).setWidth 8 := by
      ext i hi
      have hlt (hb : raw.getLsbD (8 + i) = true) : i < 2 := by
        have := BitVec.lt_of_getLsbD hb
        omega
      simpa using fun hb => Nat.le_of_lt_succ (hlt hb)
    rw [latch, if_pos (s.justBit_eq_zero_iff.2 h), if_pos h, if_pos h, hhi,
      BitVec.setWidth_eq_extractLsb' (x := raw) (by decide)]
  · have hlo : (raw.extractLsb' 0 2).setWidth 8 <<< 6 = raw.setWidth 8 <<< 6 := by
      ext i hi
      simp [Nat.le_of_lt_succ hi]
    rw [latch, if_neg (mt s.justBit_eq_zero_iff.1 h), if_neg h, if_neg h, hlo,
      BitVec.setWidth_ushiftRight_eq_extractLsb]

end Sys2Proof.Machine
end

section
/-! PROOFS. A wait that the converter does not end: turns that hold (R163 to R165). -/

namespace Sys2Proof.Machine

section
variable {s : State}

/-- A turn that changes nothing is a step that changes nothing but the schedule (R16, log 5). -/
theorem leads_held {turn : Turn} (hr : reservedValue s = none) (hrsp : s.rsp = none)
    (hheld : ∀ rest, runTurn turn (s.onSchedule rest) = .next (s.onSchedule rest)) : Leads [turn] s s := by
  intro rest
  have hr' : reservedValue (s.onSchedule (turn :: rest)) = none := hr
  have hbegin : (s.onSchedule (turn :: rest)).beginStep = s.onSchedule rest := by
    simp [State.beginStep, State.afterTurn, State.setRsp, State.onSchedule, hrsp]
  refine run_one ((step_eq_runTurn hr').trans ?_)
  rw [hbegin]
  exact hheld rest

/-- Turns each of which changes nothing change nothing together. -/
theorem leads_all_held {ts : List Turn} (h : ∀ turn ∈ ts, Leads [turn] s s) : Leads ts s s := by
  induction ts with
  | nil => exact .refl
  | cons turn ts ih =>
    obtain ⟨hturn, hts⟩ := List.forall_mem_cons.1 h
    exact hturn.trans (ih hts)

/-- With START = 1 the SEQ agent polls in vain (R162, R165). -/
theorem seqTurn_polls (hq : s.seq = S_WAIT) (hm : s.cfg.mode = .polled) (hs : s.start = true) :
    seqTurn s = .next s := by
  rw [seqTurn_wait_polled hq hm, execWaitp_polls hq hm hs, State.setSeq_self hq]

/-- Without the signal the SEQ agent holds (R163, R165). -/
theorem seqTurn_unsignalled (hq : s.seq = S_WAIT) (hm : s.cfg.mode = .interrupt) (hg : s.sig = false) :
    seqTurn s = .next s :=
  (seqTurn_wait_interrupt hq hm).trans (execWaiti_unsignalled hg)

/-- Without DONE the NOTIFY agent holds (R169). -/
theorem notifyTurn_not_pending (hp : s.irqPending = false) : notifyTurn s = .next s :=
  (notifyTurn_eq s).trans (execNotify_held (by simp [hp]))

end

end Sys2Proof.Machine
end

section
/-! PROOFS. The progress of a READ along an infinite run (R168, R230): at each stage one agent leads on, and every other
turn keeps the stage. -/

namespace Sys2Proof.Machine

/-- The configuration, CTLSTAT, SEQ and SIG are the same in both states. -/
def SameControl (s t : State) : Prop :=
  t.cfg = s.cfg ∧ t.ctlstat = s.ctlstat ∧ t.seq = s.seq ∧ t.sig = s.sig

section
variable {s t : State}

theorem SameControl.refl : SameControl s s := ⟨rfl, rfl, rfl, rfl⟩

theorem State.setRsp_sameControl (s : State) (v : Option Sample) : SameControl s (s.setRsp v) :=
  ⟨rfl, rfl, rfl, rfl⟩

theorem hostPresents_sameControl (s : State) : SameControl s (hostPresents s) :=
  ⟨by simp, by simp, by simp, by simp⟩

/-- A whole command given to a busy block waits at the port (R139, log 4). -/
theorem commandTurn_busy (hq : s.seq ≠ S_IDLE) (h : commandTurn s = .next t) : SameControl s t := by
  have hq' : (hostPresents s).seq ≠ S_IDLE := by rwa [hostPresents_seq]
  rcases commandTurn_cases h with ⟨-, rfl⟩ | ⟨w, -, ⟨-, h⟩ | ⟨c, -, h⟩ | ⟨-, h⟩⟩
  · exact hostPresents_sameControl s
  · cases (carryOut_busy hq').symm.trans h
    exact hostPresents_sameControl s
  · cases (carryOut_busy hq').symm.trans h
    exact hostPresents_sameControl s
  · cases (execAccept_held fun hi => hq' hi.1).symm.trans h
    exact hostPresents_sameControl s

theorem ne_idle_of_wait (hq : s.seq = S_WAIT) : s.seq ≠ S_IDLE := by rw [hq]; decide

/-- The turn changes nothing that the progress of a READ depends on. -/
def KeepsControl (turn : Turn) (s : State) : Prop := ∀ t, runTurn turn s = .next t → SameControl s t

theorem keepsControl_of_held {turn : Turn} (h : runTurn turn s = .next s) : KeepsControl turn s := by
  intro t ht
  cases h.symm.trans ht
  exact .refl

/-- In a busy block every turn but reset keeps the control, if the turns of SEQ, CONV and NOTIFY do. -/
theorem keepsControl_of_busy (hq : s.seq ≠ S_IDLE) {turn : Turn} (hr : turn ≠ .rst)
    (hseq : turn = .seq → seqTurn s = .next s) (hconv : turn = .conv → s.inFlight = false)
    (hnotify : turn = .notify → s.irqPending = false) : KeepsControl turn s := by
  cases turn with
  | host =>
    rintro t ⟨⟩
    exact hostPresents_sameControl s
  | seq => exact keepsControl_of_held (hseq rfl)
  | conv => exact keepsControl_of_held (convTurn_disabled (hconv rfl))
  | notify => exact keepsControl_of_held (notifyTurn_not_pending (hnotify rfl))
  | command => exact fun t => commandTurn_busy hq
  | rst => exact absurd rfl hr

/-- In a READ and outside S_WAIT only the SEQ agent moves the control. -/
theorem Inv.keepsControl_of_not_waiting (h : Inv s) (hidle : s.seq ≠ S_IDLE) (hwait : s.seq ≠ S_WAIT) {turn : Turn}
    (hr : turn ≠ .rst) (hseq : turn ≠ .seq) : KeepsControl turn s := by
  have hflight : s.inFlight = false := by simp [State.inFlight, h.start_false hwait]
  have hirq : s.irqPending = false := Bool.eq_false_iff.2 fun hp => hwait (h.waiting_of_irqPending hp).seq
  exact keepsControl_of_busy hidle hr (absurd · hseq) (fun _ => hflight) (fun _ => hirq)

end

/-- SEQ holds the code `q`. -/
def AtSeq (q : BitVec 3) (s : State) : Prop := s.seq = q

/-! A stage of a run that one agent ends. -/

/-- A run without reset from a state that meets the invariant. -/
structure SafeRun (sched : Nat → Turn) (r : Nat → State) : Prop where
  inv : ∀ n, Inv (r n)
  run : IsRun sched r
  noReset : NoReset sched

/-- A later state of the run than the `n`-th meets `goal`. -/
def Later (r : Nat → State) (n : Nat) (goal : State → Prop) : Prop := ∃ m, n < m ∧ goal (r m)

/-- `stage` lasts under every agent's turns but those of `agent`, which lead to `goal`. -/
structure Ends (agent : Turn) (stage goal : State → Prop) : Prop where
  congr : ∀ {s t}, SameControl s t → stage s → stage t
  keeps : ∀ {s}, Inv s → stage s → ∀ {turn}, turn ≠ .rst → turn ≠ agent → KeepsControl turn s
  leads : ∀ {s t}, Inv s → stage s → runTurn agent s = .next t → goal t

section
variable {sched : Nat → Turn} {r : Nat → State}

theorem Later.trans {n : Nat} {stage goal : State → Prop} (h : Later r n stage)
    (hgoal : ∀ {m}, stage (r m) → Later r m goal) : Later r n goal := by
  obtain ⟨m, hm, hstage⟩ := h
  obtain ⟨k, hk, hk'⟩ := hgoal hstage
  exact ⟨k, hm.trans hk, hk'⟩

theorem SafeRun.of_inv_zero (h0 : Inv (r 0)) (hrun : IsRun sched r) (hr : NoReset sched) : SafeRun sched r where
  inv n := by
    induction n with
    | zero => exact h0
    | succ n ih => exact step_keeps_inv (ih.congr rfl rfl rfl rfl rfl rfl : Inv ((r n).withTurn (sched n))) (hrun n)
  run := hrun
  noReset := hr

/-- A step of the run is the scheduled turn, taken with the response gone. -/
theorem SafeRun.turn_leads (h : SafeRun sched r) (n : Nat) :
    runTurn (sched n) ((r n).setRsp none) = .next (r (n + 1)) :=
  (step_cases (h.run n)).2

/-- A stage is left for its goal, once its agent is sure to get a turn while the stage lasts. -/
theorem SafeRun.eventually (h : SafeRun sched r) {agent : Turn} {stage goal : State → Prop}
    (he : Ends agent stage goal) {n : Nat}
    (hfair : (∀ m, n ≤ m → stage (r m)) → ∃ m, n ≤ m ∧ sched m = agent) (hn : stage (r n)) :
    Later r n goal := by
  have hquiet {m : Nat} (hm : stage (r m)) : Inv ((r m).setRsp none) ∧ stage ((r m).setRsp none) :=
    ⟨(h.inv m).congr rfl rfl rfl rfl rfl rfl, he.congr ((r m).setRsp_sameControl none) hm⟩
  have hleads {m : Nat} (hm : stage (r m)) (ht : sched m = agent) : goal (r (m + 1)) := by
    obtain ⟨hinv, hstage⟩ := hquiet hm
    exact he.leads hinv hstage (ht ▸ h.turn_leads m)
  have hkeeps {m : Nat} (hm : stage (r m)) (ht : sched m ≠ agent) : stage (r (m + 1)) := by
    obtain ⟨hinv, hstage⟩ := hquiet hm
    exact he.congr (he.keeps hinv hstage (h.noReset m) ht _ (h.turn_leads m)) hstage
  by_contra hnever
  have hstays (m : Nat) (hm : n ≤ m) : stage (r m) := by
    induction m, hm using Nat.le_induction with
    | base => exact hn
    | succ m hm ih => exact hkeeps ih fun ht => hnever ⟨m + 1, Nat.lt_succ_of_le hm, hleads ih ht⟩
  obtain ⟨m, hm, ht⟩ := hfair hstays
  exact hnever ⟨m + 1, Nat.lt_succ_of_le hm, hleads (hstays m hm) ht⟩

end

/-! The stages of a READ. -/

theorem GoesTo.seq_eq {res : Result} {t : State} {q : BitVec 3} (h : GoesTo res q) (ht : res = .next t) :
    t.seq = q := by
  obtain ⟨u, hu, hq⟩ := h
  cases hu.symm.trans ht
  exact hq

/-- A SEQ state of a READ outside S_WAIT is left by the SEQ agent's turn. -/
theorem ends_of_seq {q : BitVec 3} {goal : State → Prop} (hidle : q ≠ S_IDLE) (hwait : q ≠ S_WAIT)
    (hleads : ∀ {s t}, s.seq = q → seqTurn s = .next t → goal t) : Ends .seq (AtSeq q) goal where
  congr hc hq := hc.2.2.1.trans hq
  keeps hi hq _ hr hne := hi.keepsControl_of_not_waiting (hq ▸ hidle) (hq ▸ hwait) hr hne
  leads _ hq h := hleads hq h

theorem selectEnds : Ends .seq (AtSeq S_SELECT) (AtSeq S_TRIGGER) :=
  ends_of_seq (by decide) (by decide) fun hq h => (seqTurn_selch_goesTo hq).seq_eq h

theorem triggerEnds : Ends .seq (AtSeq S_TRIGGER) (AtSeq S_WAIT) :=
  ends_of_seq (by decide) (by decide) fun hq h => (seqTurn_trig_goesTo hq).seq_eq h

theorem readyEnds :
    Ends .seq (AtSeq S_READY) (fun s => s.seq = S_IDLE ∧ s.rspValid = true) :=
  ends_of_seq (by decide) (by decide) fun {s t} hq h => by
    rw [seqTurn_ready hq, execRet_enabled hq] at h
    cases h
    exact ⟨rfl, rfl⟩

/-- In S_WAIT, with the conversion in flight. -/
def InFlightWait (s : State) : Prop := s.seq = S_WAIT ∧ s.start = true

/-- In S_WAIT, with the conversion complete. -/
def CompletedWait (s : State) : Prop := s.seq = S_WAIT ∧ s.start = false

/-- In a polled S_WAIT, with the conversion complete. -/
def PollableWait (s : State) : Prop := s.seq = S_WAIT ∧ s.cfg.mode = .polled ∧ s.start = false

/-- In an interrupt-driven S_WAIT, with the completion not acknowledged. -/
def PendingWait (s : State) : Prop := s.seq = S_WAIT ∧ s.cfg.mode = .interrupt ∧ s.done = true

/-- In S_WAIT, with the completion signalled. -/
def SignalledWait (s : State) : Prop := s.seq = S_WAIT ∧ s.sig = true

theorem InFlightWait.inFlight {s : State} (h : InFlightWait s) (hi : Inv s) : s.inFlight = true :=
  Bool.and_eq_true_iff.2 ⟨(hi.waiting h.1).initialised.en, h.2⟩

theorem PendingWait.irqPending {s : State} (h : PendingWait s) (hi : Inv s) : s.irqPending = true :=
  Bool.and_eq_true_iff.2 ⟨h.2.2, (hi.waiting h.1).initialised.ien_of_interrupt h.2.1⟩

theorem inFlightWaitEnds : Ends .conv InFlightWait CompletedWait where
  congr := by
    rintro s t ⟨-, hctl, hq, -⟩ ⟨hw, hs⟩
    exact ⟨hq.trans hw, (congrArg (fieldBit .start) hctl).trans hs⟩
  keeps := by
    rintro s hi ⟨hq, hs⟩ turn hr hne
    have hseq : seqTurn s = .next s := by
      cases hm : s.cfg.mode with
      | polled => exact seqTurn_polls hq hm hs
      | interrupt => exact seqTurn_unsignalled hq hm ((hi.interruptHold_iff hq hm).2 hs).1
    have hirq : s.irqPending = false := by
      have hd : s.done = false := Bool.eq_false_iff.2 fun hd => hi.startDoneApart ⟨hs, hd⟩
      simp [State.irqPending, hd]
    exact keepsControl_of_busy (ne_idle_of_wait hq) hr (fun _ => hseq) (absurd · hne) (fun _ => hirq)
  leads := by
    rintro s t hi ⟨hq, hs⟩ h
    have he : s.en = true := (hi.waiting hq).initialised.en
    have hf : s.inFlight = true := InFlightWait.inFlight ⟨hq, hs⟩ hi
    refine ⟨((convTurn_keeps_seq s).seq_eq h).trans hq, ?_⟩
    exact execConvDone_start (by simpa [State.en] using he) ((convTurn_enabled hf).symm.trans h)

theorem pollableWaitEnds : Ends .seq PollableWait (AtSeq S_READY) where
  congr := by
    rintro s t ⟨hc, hctl, hq, -⟩ ⟨hw, hm, hs⟩
    exact ⟨hq.trans hw, hc ▸ hm, (congrArg (fieldBit .start) hctl).trans hs⟩
  keeps := by
    rintro s hi ⟨hq, hm, hs⟩ turn hr hne
    have hien : s.ien = false :=
      Bool.eq_false_iff.2 fun h => by simp [(hi.waiting hq).initialised.ctl.2.1 h] at hm
    exact keepsControl_of_busy (ne_idle_of_wait hq) hr (absurd · hne) (by simp [State.inFlight, hs])
      (by simp [State.irqPending, hien])
  leads := by
    rintro s t - ⟨hq, hm, hs⟩ h
    exact (seqTurn_pollDone_goesTo hq hm hs).seq_eq h

theorem pendingWaitEnds : Ends .notify PendingWait SignalledWait where
  congr := by
    rintro s t ⟨hc, hctl, hq, -⟩ ⟨hw, hm, hd⟩
    exact ⟨hq.trans hw, hc ▸ hm, (congrArg (fieldBit .done) hctl).trans hd⟩
  keeps := by
    rintro s hi ⟨hq, hm, hd⟩ turn hr hne
    have hs : s.start = false := Bool.eq_false_iff.2 fun hs => hi.startDoneApart ⟨hs, hd⟩
    have hg : s.sig = false := Bool.eq_false_iff.2 fun hg => by simp [hi.signalLast hg] at hd
    exact keepsControl_of_busy (ne_idle_of_wait hq) hr (fun _ => seqTurn_unsignalled hq hm hg)
      (by simp [State.inFlight, hs]) (absurd · hne)
  leads := by
    rintro s t hi ⟨hq, hm, hd⟩ h
    have hp : s.irqPending = true := PendingWait.irqPending ⟨hq, hm, hd⟩ hi
    cases ((notifyTurn_eq s).trans (execNotify_enabled hp)).symm.trans h
    exact ⟨(takeCompletionInterrupt_seq s).trans hq, rfl⟩

theorem signalledWaitEnds : Ends .seq SignalledWait (AtSeq S_READY) where
  congr := by
    rintro s t ⟨-, -, hq, hsig⟩ ⟨hw, hg⟩
    exact ⟨hq.trans hw, hsig.trans hg⟩
  keeps := by
    rintro s hi ⟨hq, hg⟩ turn hr hne
    obtain ⟨hs, hd⟩ := hi.signalLast hg
    exact keepsControl_of_busy (ne_idle_of_wait hq) hr (absurd · hne) (by simp [State.inFlight, hs])
      (by simp [State.irqPending, hd])
  leads := by
    rintro s t hi ⟨hq, hg⟩ h
    exact (seqTurn_signalled_goesTo hq (hi.sigOnlyInWait hg).2 hg).seq_eq h

/-! The stages one after another. -/

/-- Outside S_IDLE the SEQ agent of a legal state has a step, in S_WAIT if it polls or is signalled (R162, R163). -/
theorem seqEnabled_of_busy {s : State} (hlegal : s.seq ≠ 7#3) (hidle : s.seq ≠ S_IDLE)
    (hwait : s.seq = S_WAIT → s.cfg.mode = .polled ∨ s.sig = true) : s.seqEnabled = true := by
  by_contra hen
  rcases (seqEnabled_false_iff hlegal).1 (Bool.eq_false_iff.2 hen) with ⟨hq, -⟩ | ⟨hq, hm, hg⟩
  · exact hidle hq
  · simpa [hm, hg] using hwait hq

/-- A safe run in which the converter responds and the SEQ and NOTIFY agents are weakly fair. -/
structure FairRun (sched : Nat → Turn) (r : Nat → State) : Prop extends SafeRun sched r where
  responds : ConverterResponds sched r
  seqFair : WeaklyFair .seq sched r
  notifyFair : WeaklyFair .notify sched r

section
variable {sched : Nat → Turn} {r : Nat → State} (h : FairRun sched r) {n : Nat}
include h

/-- A stage that the SEQ agent ends, and in which it has a step, is left for its goal. -/
theorem FairRun.later_of_seq {stage goal : State → Prop} (he : Ends .seq stage goal)
    (hen : ∀ {s}, Inv s → stage s → s.seqEnabled = true) (hn : stage (r n)) : Later r n goal :=
  h.eventually he (fun hstage => h.seqFair n fun m hm => hen (h.inv m) (hstage m hm)) hn

/-- In a SEQ state other than S_IDLE and S_WAIT the SEQ agent has a step. -/
theorem FairRun.later_of_atSeq {q : BitVec 3} {goal : State → Prop} (he : Ends .seq (AtSeq q) goal)
    (hq : q ≠ S_IDLE ∧ q ≠ S_WAIT) (hn : AtSeq q (r n)) : Later r n goal := by
  refine h.later_of_seq he (fun {s} hi (hs : s.seq = q) => ?_) hn
  exact seqEnabled_of_busy hi.seqLegal (hs ▸ hq.1) fun hw => absurd (hs.symm.trans hw) hq.2

theorem FairRun.ready_of_signalled (hg : SignalledWait (r n)) : Later r n (AtSeq S_READY) :=
  h.later_of_seq signalledWaitEnds
    (fun hi hg => seqEnabled_of_busy hi.seqLegal (ne_idle_of_wait hg.1) fun _ => .inr hg.2) hg

theorem FairRun.ready_of_pollable (hp : PollableWait (r n)) : Later r n (AtSeq S_READY) :=
  h.later_of_seq pollableWaitEnds
    (fun hi hp => seqEnabled_of_busy hi.seqLegal (ne_idle_of_wait hp.1) fun _ => .inl hp.2.1) hp

theorem FairRun.signalled_of_pending (hp : PendingWait (r n)) : Later r n SignalledWait :=
  h.eventually pendingWaitEnds
    (fun hstage => h.notifyFair n fun m hm => (hstage m hm).irqPending (h.inv m)) hp

theorem FairRun.completed_of_inFlight (hf : InFlightWait (r n)) : Later r n CompletedWait := by
  refine h.eventually inFlightWaitEnds (fun hstage => ?_) hf
  obtain ⟨m, hm, hconv, -⟩ := h.responds n ((hstage n le_rfl).inFlight (h.inv n))
  exact ⟨m, hm, hconv⟩

theorem FairRun.ready_of_completed (hc : CompletedWait (r n)) : Later r n (AtSeq S_READY) := by
  obtain ⟨hq, hs⟩ := hc
  obtain ⟨-, -, ⟨hs', -⟩ | ⟨-, hd, -⟩ | ⟨-, -, -, hg⟩⟩ := (h.inv n).waiting hq
  · simp [hs] at hs'
  · cases hm : (r n).cfg.mode with
    | polled => exact h.ready_of_pollable ⟨hq, hm, hs⟩
    | interrupt => exact (h.signalled_of_pending ⟨hq, hm, hd⟩).trans h.ready_of_signalled
  · exact h.ready_of_signalled ⟨hq, hg⟩

theorem FairRun.ready_of_wait (hq : AtSeq S_WAIT (r n)) : Later r n (AtSeq S_READY) := by
  cases hs : (r n).start with
  | false => exact h.ready_of_completed ⟨hq, hs⟩
  | true => exact (h.completed_of_inFlight ⟨hq, hs⟩).trans h.ready_of_completed

theorem FairRun.read_returns (hq : (r n).seq = S_SELECT) :
    Later r n (fun s => s.seq = S_IDLE ∧ s.rspValid = true) := by
  have htrigger : Later r n (AtSeq S_TRIGGER) := h.later_of_atSeq selectEnds (by decide) hq
  have hwait : Later r n (AtSeq S_WAIT) := htrigger.trans (h.later_of_atSeq triggerEnds (by decide))
  have hready : Later r n (AtSeq S_READY) := hwait.trans h.ready_of_wait
  exact hready.trans (h.later_of_atSeq readyEnds (by decide))

end

end Sys2Proof.Machine
end

section
/-! PROOFS. The statements of the conversion trigger and wait family. -/

namespace Sys2Proof.Machine

/-- Settles O45: every move brings the result, keeps it, or leads to where none is due; so do RET and reset. -/
theorem everyStepKeepsTheResultFresh : Obligations.EveryStepKeepsTheResultFresh :=
  fun _ _ => step_keeps_fresh

/-- Settles O16: TRIG is enabled, and its write keeps the bits outside START and DONE. -/
theorem trigStartsTheConversion : Obligations.TrigStartsTheConversion := by
  intro s hq
  obtain ⟨-, -, -, -, hchsel, hrefs, -⟩ := portsCopyTheirFields s
  rw [← hchsel, ← hrefs]
  exact (execTrig_enabled hq).trans (congrArg _ s.triggered_eq)

/-- Settles O17: START alone decides whether WAITP leaves the wait. -/
theorem waitpTestsTheStartBit : Obligations.WaitpTestsTheStartBit := by
  intro s hq hm
  obtain ⟨-, -, hstart, -⟩ := portsCopyTheirFields s
  refine ⟨fun hs => execWaitp_leaves hq hm ?_, fun hs => ?_⟩
  · exact Bool.eq_false_iff.2 fun hs' => hstart.1 hs' hs
  · exact (execWaitp_polls hq hm (hstart.2 hs)).trans (congrArg _ (State.setSeq_self hq))

/-- Settles O19: CONV_DONE is enabled, latches by the JUST bit, and its write keeps the bits outside START and DONE. -/
theorem convDoneLatchesTheResult : Obligations.ConvDoneLatchesTheResult := by
  intro s raw hf
  refine (execConvDone_enabled (s.inFlight_iff.2 hf)).trans (congrArg _ ((s.delivered_eq raw).trans ?_))
  rw [s.latch_justBit raw]

/-- Settles O20: NOTIFY is enabled, and its write keeps the bits outside DONE. -/
theorem notifyCapturesAndSignals : Obligations.NotifyCapturesAndSignals := by
  intro s hp
  exact (execNotify_enabled (s.irqPending_iff.2 hp)).trans (congrArg _ (takeCompletionInterrupt_eq s))

/-- Settles O46: RET assembles a fresh result. -/
theorem retReturnsTheConversionJustStarted : Obligations.RetReturnsTheConversionJustStarted := by
  intro s hi h hq
  obtain ⟨raw, hraw, hsample⟩ := h.sample_of_ready hi hq
  refine ⟨raw, hraw, s.returned, execRet_enabled hq, ?_⟩
  rw [← hsample]
  exact ⟨rfl, rfl⟩

/-- Settles O49: in a polled wait DONE is the complement of START. -/
theorem pollingDoneEqualsPollingStart : Obligations.PollingDoneEqualsPollingStart := by
  intro s hi
  by_cases hg : s.seq = S_WAIT ∧ s.cfg.mode = .polled
  · have hdone := hi.pollAgrees hg.2 hg.1
    cases hs : s.start with
    | false => simp [exec, execWaitp_leaves hg.1 hg.2 hs, waitpOnDone, hg, hdone, hs]
    | true => simp [exec, execWaitp_polls hg.1 hg.2 hs, waitpOnDone, hg, hdone, hs]
  · exact (execWaitp_held hg).trans (if_neg hg).symm

/-- Settles O50: each poll with START = 1 changes nothing. -/
theorem unansweredPolledReadHangs : Obligations.UnansweredPolledReadHangs := by
  intro n s rest hr hq hm hs hrsp hts
  have hpoll : Leads [.seq] s s := leads_held hr hrsp fun rest => seqTurn_polls (s := s.onSchedule rest) hq hm hs
  exact (hpoll.replicate n).run hts (by simp)

/-- Settles O51: WAITI holds without the signal, and NOTIFY without DONE. -/
theorem unansweredInterruptReadHolds : Obligations.UnansweredInterruptReadHolds := by
  intro ts s rest hr hq hm hg hd hrsp hall hts
  have hirq : s.irqPending = false := by simp [State.irqPending, hd]
  have hheld (turn : Turn) (ht : turn ∈ ts) : Leads [turn] s s := by
    rcases hall turn ht with rfl | rfl
    · exact leads_held hr hrsp fun rest => seqTurn_unsignalled (s := s.onSchedule rest) hq hm hg
    · exact leads_held hr hrsp fun rest => notifyTurn_not_pending (s := s.onSchedule rest) hirq
  exact (leads_all_held hheld).run hts rfl

/-- Settles O55: from S_SELECT the run reaches S_TRIGGER, S_WAIT, S_READY and RET's response, each stage ended by its
agent. -/
theorem everyReadReturnsWhenTheConverterResponds : Obligations.EveryReadReturnsWhenTheConverterResponds := by
  intro sched r h0 hrun hr hconv hseq hnotify n hq
  exact FairRun.read_returns ⟨.of_inv_zero h0 hrun hr, hconv, hseq, hnotify⟩ hq

end Sys2Proof.Machine
end

section
/-! PROOFS. Assemble and Latch as concatenations of bits (R180, R181), and the sample RET returns (R182). -/

namespace Sys2Proof.Machine

/-- The right-justified case as R181 writes it: `hi[1:0] ++ lo`. -/
theorem assemble_right_eq_append (hi lo : Byte) : assemble .right hi lo = hi.extractLsb' 0 2 ++ lo := by
  have hmask : hi.setWidth 10 &&& 0x003#10 = (hi.extractLsb' 0 2).setWidth 10 := by
    refine BitVec.eq_of_toNat_eq ((Nat.and_two_pow_sub_one_eq_mod _ 2).trans ?_)
    rw [BitVec.toNat_setWidth_of_le (by decide), BitVec.toNat_setWidth_of_le (by decide), BitVec.extractLsb'_toNat,
      Nat.shiftRight_zero]
  rw [assemble, hmask, BitVec.append_def, BitVec.shiftLeftZeroExtend_eq, BitVec.setWidth'_eq]

/-- As a number: `hi[1:0]` counts 256 each, and the bits of `hi` above them count nothing (R181). -/
theorem assemble_right_toNat (hi lo : Byte) :
    (assemble .right hi lo).toNat = 256 * (hi.toNat % 4) + lo.toNat := by
  rw [assemble_right_eq_append, BitVec.toNat_append, ← Nat.shiftLeft_add_eq_or_of_lt lo.isLt]
  simp [Nat.shiftLeft_eq, Nat.mul_comm]

theorem assemble_left_toNat (hi lo : Byte) : (assemble .left hi lo).toNat = hi.toNat :=
  BitVec.toNat_setWidth_of_le (by decide)

/-- Assemble in arithmetic, for either justification (R181). -/
theorem assemble_eq_ofNat (j : Just) (hi lo : Byte) :
    assemble j hi lo =
      if j = .right then BitVec.ofNat 10 (256 * (hi.toNat % 4) + lo.toNat) else BitVec.ofNat 10 hi.toNat := by
  cases j with
  | right => rw [if_pos rfl, ← assemble_right_toNat, BitVec.ofNat_toNat, BitVec.setWidth_eq]
  | left => rw [if_neg (by decide), ← assemble_left_toNat hi lo, BitVec.ofNat_toNat, BitVec.setWidth_eq]

/-- The left-justified low half as R180 writes it: `raw[1:0] ++ 0b000000`. -/
theorem latch_left_low (raw : Sample) : (latch 1#1 raw).2 = raw.extractLsb' 0 2 ++ 0b000000#6 := by
  rw [BitVec.append_def, BitVec.shiftLeftZeroExtend_eq]
  exact (BitVec.or_zero).symm

theorem State.resultHalves_eq (s : State) : s.resultHalves =
    (if s.cfg.mode = .polled then s.dataHi else s.captHi, if s.cfg.mode = .polled then s.dataLo else s.captLo) := by
  cases hm : s.cfg.mode <;> simp [State.resultHalves, hm]

end Sys2Proof.Machine
end

section
/-! PROOFS. The statements of the result justifier family. -/

namespace Sys2Proof.Machine

/-- Settles O21: RET is enabled, and its sample is Assemble of the halves the mode names. -/
theorem retReturnsTheAssembledSample : Obligations.RetReturnsTheAssembledSample := by
  intro s hq hi lo v
  have hsample : s.sample = v := by
    rw [State.sample, s.resultHalves_eq]
    exact assemble_eq_ofNat s.cfg.just hi lo
  exact hsample ▸ execRet_enabled hq

/-- Settles O29: both cases as numbers, and Latch reaches every right-justified sample. -/
theorem assembleRangesAndMasks : Obligations.AssembleRangesAndMasks :=
  ⟨assemble_right_toNat, fun r => ⟨_, _, assemble_latch r .right⟩, assemble_left_toNat⟩

/-- Settles O28: the matched cases are READ's, and the mixed ones take the halves apart bit by bit. -/
theorem latchAndAssembleRoundTrip : Obligations.LatchAndAssembleRoundTrip := by
  intro r
  have hleft : assemble .left (latch 1#1 r).1 (latch 1#1 r).2 = r >>> 2 := assemble_latch r .left
  refine ⟨assemble_latch r .right, hleft, ?_, ?_, ?_⟩
  · rw [hleft, BitVec.toNat_ushiftRight, Nat.shiftRight_eq_div_pow]
  · have hhigh : (latch 1#1 r).1.extractLsb' 0 2 = r.extractLsb' 2 2 :=
      (BitVec.setWidth_eq_extractLsb' (by decide)).symm.trans (BitVec.setWidth_extractLsb'_of_le (by decide))
    rw [assemble_right_eq_append, latch_left_low, hhigh]
  · exact BitVec.setWidth_setWidth (by decide)

end Sys2Proof.Machine
end

section
/-! PROOFS. The level of irq along a step (R43, R198, R207): only CONV_DONE raises it, and only
NOTIFY or reset lowers it. -/

namespace Sys2Proof.Machine

section
variable {s t : State}

/-! Where an interrupt can be pending. -/

theorem State.irqPending_congr (h : t.ctlstat = s.ctlstat) : t.irqPending = s.irqPending :=
  congrArg (fun b => fieldBit .done b && fieldBit .ien b) h

theorem Inv.pendingWait (h : Inv s) (hp : s.irqPending = true) : PendingWait s := by
  obtain ⟨hd, hien⟩ := Bool.and_eq_true_iff.1 hp
  have hw : Waiting s := h.waiting_of_irqPending hp
  exact ⟨hw.seq, hw.initialised.ctl.2.1 hien, hd⟩

theorem Inv.irqPending_false_of_seq (h : Inv s) (hq : s.seq ≠ S_WAIT) : s.irqPending = false :=
  Bool.eq_false_iff.2 fun hp => hq (h.pendingWait hp).1

theorem Inv.irqPending_false_of_polled (h : Inv s) (hm : s.cfg.mode = .polled) : s.irqPending = false :=
  Bool.eq_false_iff.2 fun hp => absurd (hm.symm.trans (h.pendingWait hp).2.1) (by decide)

/-! The micro-operations that keep CTLSTAT. -/

theorem acceptWord_ctlstat {w : Byte} (h : acceptWord w s = .next t) : t.ctlstat = s.ctlstat := by
  obtain ⟨-, ⟨-, -, rfl⟩ | ⟨c, -, -, rfl⟩⟩ := acceptWord_cases h <;> rfl

theorem execAccept_ctlstat {w : Byte} (h : execAccept w s = .next t) : t.ctlstat = s.ctlstat := by
  rcases execAccept_cases h with ⟨-, -, ha⟩ | ⟨-, rfl⟩
  · exact acceptWord_ctlstat ha
  · rfl

theorem execInitmux_ctlstat (h : execInitmux s = .next t) : t.ctlstat = s.ctlstat := by
  rcases execInitmux_cases h with ⟨-, rfl⟩ | ⟨-, rfl⟩ <;> rfl

theorem execSelch_ctlstat (h : execSelch s = .next t) : t.ctlstat = s.ctlstat := by
  rcases execSelch_cases h with ⟨-, rfl⟩ | ⟨-, rfl⟩ <;> rfl

theorem execWaitp_ctlstat (h : execWaitp s = .next t) : t.ctlstat = s.ctlstat := by
  rcases execWaitp_cases h with ⟨-, -, -, rfl⟩ | ⟨-, -, -, rfl⟩ | ⟨-, rfl⟩ <;> rfl

theorem execWaiti_ctlstat (h : execWaiti s = .next t) : t.ctlstat = s.ctlstat := by
  rcases execWaiti_cases h with ⟨-, -, -, rfl⟩ | ⟨-, rfl⟩ <;> rfl

theorem execRet_ctlstat (h : execRet s = .next t) : t.ctlstat = s.ctlstat := by
  rcases execRet_cases h with ⟨-, rfl⟩ | ⟨-, rfl⟩ <;> rfl

/-! The operations that write DONE or IEN. -/

/-- TRIG clears DONE (R161). -/
theorem execTrig_irqPending (hp : s.irqPending = false) (h : execTrig s = .next t) : t.irqPending = false := by
  rcases execTrig_cases h with ⟨-, rfl⟩ | ⟨-, rfl⟩
  · exact Bool.and_eq_false_imp.2 fun hd => absurd ((trigWrite_bits s.ctlstat).2.symm.trans hd) (by decide)
  · exact hp

/-- INITCTL sets IEN while no conversion has completed (R134, R221). -/
theorem execInitctl_irqPending (hi : Inv s) (hp : s.irqPending = false) (h : execInitctl s = .next t) :
    t.irqPending = false := by
  have ht : Inv t := (execInitctl_moves h).keep Move.keeps_inv hi
  rcases execInitctl_cases h with ⟨-, rfl⟩ | ⟨-, rfl⟩
  · exact ht.irqPending_false_of_seq (by decide : S_IDLE ≠ S_WAIT)
  · exact hp

/-- NOTIFY leaves no interrupt pending, enabled or not (R169). -/
theorem execNotify_irqPending (h : execNotify s = .next t) : t.irqPending = false := by
  rcases execNotify_cases h with ⟨-, rfl⟩ | ⟨hp, rfl⟩
  · exact Bool.and_eq_false_imp.2 fun hd => absurd ((notifyWrite_bits s.ctlstat).2.symm.trans hd) (by decide)
  · exact hp

/-- CONV_DONE makes the interrupt pending when IEN = 1 (R167, R198). -/
theorem State.delivered_irqPending (raw : Sample) (hien : s.ien = true) : (s.delivered raw).irqPending = true := by
  have hctl := s.delivered_ctlstat raw
  have hdone : (s.delivered raw).done = true :=
    (congrArg (fieldBit .done) hctl).trans (convDoneWrite_bits s.ctlstat).2
  obtain ⟨-, -, hkeep, -⟩ := State.statusWrite_fields (by decide) hctl
  exact Bool.and_eq_true_iff.2 ⟨hdone, hkeep.trans hien⟩

/-! The turns. -/

/-- In interrupt mode the completion of a conversion is pending at once (R198). -/
theorem convTurn_irqPending (hi : Inv s) (hm : s.cfg.mode = .interrupt) (hf : s.inFlight = true)
    (h : convTurn s = .next t) : t.irqPending = true := by
  have hien : s.ien = true := (hi.initialised (Bool.and_eq_true_iff.1 hf).1).ien_of_interrupt hm
  have hdone : convTurn s = .next (s.afterRaw.delivered s.nextRaw) :=
    (convTurn_enabled hf).trans (execConvDone_enabled ((State.afterRaw_inFlight s).trans hf))
  cases hdone.symm.trans h
  exact State.delivered_irqPending _ ((congrArg (fieldBit .ien) s.afterRaw_ctlstat).trans hien)

theorem notifyTurn_irqPending (h : notifyTurn s = .next t) : t.irqPending = false :=
  execNotify_irqPending ((notifyTurn_eq s).symm.trans h)

/-- The SEQ agent raises no interrupt. -/
theorem seqTurn_irqPending (hi : Inv s) (hp : s.irqPending = false) (h : seqTurn s = .next t) :
    t.irqPending = false := by
  rcases seqTurn_cases h with ⟨-, -, rfl⟩ | ⟨w, -, -, h⟩ | ⟨-, h⟩ | ⟨-, h⟩ | ⟨-, -, h⟩ | ⟨-, -, h⟩ | ⟨-, h⟩ |
    ⟨-, h⟩ | ⟨-, h⟩ | ⟨-, rfl⟩
  · exact hp
  · exact (State.irqPending_congr (execAccept_ctlstat h)).trans hp
  · exact (State.irqPending_congr (execSelch_ctlstat h)).trans hp
  · exact execTrig_irqPending hp h
  · exact (State.irqPending_congr (execWaitp_ctlstat h)).trans hp
  · exact (State.irqPending_congr (execWaiti_ctlstat h)).trans hp
  · exact (State.irqPending_congr (execRet_ctlstat h)).trans hp
  · exact (State.irqPending_congr (execInitmux_ctlstat h)).trans hp
  · exact execInitctl_irqPending hi hp h
  · exact hp

/-- The wait of a READ ends acknowledged in interrupt mode, and polled it has no interrupt (R169, R198). -/
theorem finishWait_irqPending (hi : Inv s) (h : finishWait s = .next t) : t.irqPending = false := by
  unfold finishWait at h
  split at h
  next hm => exact (State.irqPending_congr (execWaitp_ctlstat h)).trans (hi.irqPending_false_of_polled hm)
  next =>
    obtain ⟨m, hn, hw⟩ := andThen_eq_next h
    exact (State.irqPending_congr (execWaiti_ctlstat hw)).trans (execNotify_irqPending hn)

/-- A command changes nothing but the port, or goes on from a state that its accepted word left (R131). -/
theorem carryOut_moves {w : Byte} {rest : State → Result} (h : carryOut w rest s = .next t) :
    t = s.setPort (some w) ∨ ∃ m, Moves s m ∧ m.ctlstat = s.ctlstat ∧ rest m = .next t := by
  rcases carryOut_cases h with ⟨-, ht⟩ | ⟨hq, m, ha, hr⟩
  · exact .inl ht
  · have haccept : Moves (s.setPort (some w)) m := acceptWord_moves hq ha
    have hctl : m.ctlstat = (s.setPort (some w)).ctlstat := acceptWord_ctlstat ha
    exact .inr ⟨m, (s.setPort_moves (some w)).trans haccept, hctl, hr⟩

theorem execInit_irqPending (hi : Inv s) (hp : s.irqPending = false) (h : execInit s = .next t) :
    t.irqPending = false := by
  rcases carryOut_moves h with rfl | ⟨m, hmoves, hctl, hr⟩
  · exact hp
  · obtain ⟨n, hx, hc⟩ := andThen_eq_next hr
    have hinv : Inv n := Moves.keep Move.keeps_inv (hmoves.trans (execInitmux_moves hx)) hi
    exact execInitctl_irqPending hinv ((State.irqPending_congr ((execInitmux_ctlstat hx).trans hctl)).trans hp) hc

/-- A READ carried out to its end leaves no interrupt pending: its wait ends without one (R135). -/
theorem execRead_irqPending {c : BitVec 5} (hi : Inv s) (hp : s.irqPending = false)
    (h : execRead c s = .next t) : t.irqPending = false := by
  rcases carryOut_moves h with rfl | ⟨m, hmoves, -, hr⟩
  · exact hp
  · obtain ⟨m₁, hsel, hr⟩ := andThen_eq_next hr
    obtain ⟨m₂, htrig, hr⟩ := andThen_eq_next hr
    obtain ⟨m₃, hconv, hr⟩ := andThen_eq_next hr
    obtain ⟨m₄, hwait, hret⟩ := andThen_eq_next hr
    have hanswered : Moves m m₃ :=
      (execSelch_moves hsel).trans <| (execTrig_moves htrig).trans (converterAnswers_moves hconv)
    have hinv : Inv m₃ := Moves.keep Move.keeps_inv (hmoves.trans hanswered) hi
    exact (State.irqPending_congr (execRet_ctlstat hret)).trans (finishWait_irqPending hinv hwait)

/-- A whole command ends without a pending interrupt, if none was pending (R132, R135). -/
theorem commandTurn_irqPending (hi : Inv s) (hp : s.irqPending = false) (h : commandTurn s = .next t) :
    t.irqPending = false := by
  have hi' : Inv (hostPresents s) := (hostPresents_moves s).keep Move.keeps_inv hi
  have hp' : (hostPresents s).irqPending = false := (State.irqPending_congr (hostPresents_ctlstat s)).trans hp
  rcases commandTurn_cases h with ⟨-, rfl⟩ | ⟨w, -, ⟨-, h⟩ | ⟨c, -, h⟩ | ⟨-, h⟩⟩
  · exact hp'
  · exact execInit_irqPending hi' hp' h
  · exact execRead_irqPending hi' hp' h
  · exact (State.irqPending_congr (execAccept_ctlstat h)).trans hp'

/-- Of all turns only CONV raises irq, and only by completing the conversion in flight (R207). -/
theorem runTurn_raises_irqPending {turn : Turn} (hi : Inv s) (hp : s.irqPending = false)
    (h : runTurn turn s = .next t) (hp' : t.irqPending = true) : turn = .conv ∧ s.inFlight = true := by
  by_contra hother
  refine absurd hp' (Bool.eq_false_iff.1 ?_)
  cases turn with
  | host =>
    cases h
    exact (State.irqPending_congr (hostPresents_ctlstat s)).trans hp
  | seq => exact seqTurn_irqPending hi hp h
  | conv =>
    rcases convTurn_cases h with ⟨hf, -⟩ | ⟨-, rfl⟩
    · exact absurd ⟨rfl, hf⟩ hother
    · exact hp
  | notify => exact notifyTurn_irqPending h
  | command => exact commandTurn_irqPending hi hp h
  | rst =>
    cases h
    exact (resetInRun_inv s).irqPending_false_of_seq (by decide : S_IDLE ≠ S_WAIT)

/-- Of all turns only NOTIFY and reset lower irq: the others keep a wait whose completion is pending (R207). -/
theorem runTurn_lowers_irqPending {turn : Turn} (hi : Inv s) (hp : s.irqPending = true)
    (h : runTurn turn s = .next t) (hp' : t.irqPending = false) : turn = .notify ∨ turn = .rst := by
  by_contra hother
  obtain ⟨hnotify, hrst⟩ := not_or.1 hother
  obtain ⟨-, hctl, -, -⟩ := pendingWaitEnds.keeps hi (hi.pendingWait hp) hrst hnotify t h
  exact absurd (hp.symm.trans (State.irqPending_congr hctl).symm) (by simp [hp'])

end

end Sys2Proof.Machine
end

section
/-! PROOFS. The statements of the exceptions family. -/

namespace Sys2Proof.Machine

/-- Settles O42: irq is high exactly while a completion is pending, which only CONV_DONE begins and only NOTIFY or
reset ends. -/
theorem irqRisesWithCompletionAndFallsWithNotify : Obligations.IrqRisesWithCompletionAndFallsWithNotify := by
  intro s t hi h
  have hrun := (step_cases h).2
  have hbegin := hi.beginStep
  have hirq : s.beginStep.irqPending = s.irqPending := State.irqPending_congr s.beginStep_ctlstat
  have hflight : s.beginStep.inFlight = s.inFlight := by simp [State.inFlight]
  refine ⟨fun hm ht hf => ?_, fun _ ht => ?_, fun hp hp' => ?_, fun hp hp' => ?_,
    fun hp => (hi.pendingWait hp).1, hi.irqPending_false_of_polled⟩
  · rw [ht] at hrun
    exact convTurn_irqPending hbegin (by rwa [s.beginStep_cfg]) (hflight.trans hf) hrun
  · rw [ht] at hrun
    exact notifyTurn_irqPending hrun
  · exact hflight ▸ runTurn_raises_irqPending hbegin (hirq.trans hp) hrun hp'
  · exact runTurn_lowers_irqPending hbegin (hirq.trans hp) hrun hp'

end Sys2Proof.Machine
end

section
/-! PROOFS. What a reset during a run leaves (R220), and that the late events find neither a conversion in flight nor a
completion pending (R222). -/

namespace Sys2Proof.Machine

section
variable {s : State}

@[simp] theorem State.beginStep_answers (s : State) : s.beginStep.answers = s.answers := by simp [State.beginStep]

/-- The state a reset turn leaves, in terms of the state its step began with (R220, log 9). -/
theorem resetInRun_beginStep (s : State) :
    resetInRun s.beginStep =
      { State.resetOf s.cfg with
        history := s.history, cmdPort := s.cmdPort, cmds := s.cmds, turns := s.beginStep.turns,
        answers := s.answers, drawn := s.beginStep.drawn } := by
  simp [resetInRun]

/-- A reset clears EN and START, so a conversion that was in flight no longer is (R222). -/
theorem resetInRun_inFlight (s : State) : (resetInRun s).inFlight = false :=
  Bool.and_eq_false_imp.2 fun hen => absurd ((resetOf_disabled s.cfg).en.symm.trans hen) (by decide)

/-- A reset ends a wait, and with it the completion that was pending (R222). -/
theorem resetInRun_irqPending (s : State) : (resetInRun s).irqPending = false :=
  (resetInRun_inv s).irqPending_false_of_seq (by decide : S_IDLE ≠ S_WAIT)

/-- A late conv_done: the CONV agent's step with no conversion in flight takes its turn and nothing more (R167). -/
theorem step_conv_not_inFlight (hr : reservedValue s = none) (hf : s.inFlight = false) (ht : s.nextTurn = .conv) :
    step s = .next s.beginStep :=
  have hbegin : s.beginStep.inFlight = false := by simpa [State.inFlight] using hf
  (step_conv hr ht).trans (convTurn_disabled hbegin)

/-- A late notification: the NOTIFY agent's step with nothing pending takes its turn and nothing more (R169). -/
theorem step_notify_not_pending (hr : reservedValue s = none) (hp : s.irqPending = false)
    (ht : s.nextTurn = .notify) : step s = .next s.beginStep :=
  have hbegin : s.beginStep.irqPending = false := (State.irqPending_congr s.beginStep_ctlstat).trans hp
  (step_notify hr ht).trans (notifyTurn_not_pending hbegin)

end

end Sys2Proof.Machine
end

section
/-! PROOFS. The statements of the reset and hazards family. -/

namespace Sys2Proof.Machine

/-- Settles O34: a reset leaves no reserved value, no conversion in flight and no completion pending, so the late
events are not enabled after it. -/
theorem resetInARunRestoresTheResetState : Obligations.ResetInARunRestoresTheResetState := by
  intro s hs ht
  have hlegal : reservedValue (resetInRun s.beginStep) = none := (resetInRun_inv _).reservedValue_none
  exact ⟨resetInRun s.beginStep, step_rst hs ht, resetInRun_beginStep s,
    step_conv_not_inFlight hlegal (resetInRun_inFlight _), step_notify_not_pending hlegal (resetInRun_irqPending _)⟩

end Sys2Proof.Machine
end
